-- ==== Sys2Proof/Word.lean ====
section
/-! DEFINITION. The two word types of the block: the 32-bit host word and the byte (R9, R21). -/

namespace Sys2Proof

/-- A host word, the width of every register access (R21, R53). -/
abbrev Word := BitVec 32

/-- A byte of SRC, DST, a frame or a raster (R9). -/
abbrev Byte := BitVec 8

end Sys2Proof
end

