-- ==== Sys2Proof/Syntax.lean ====
section
/-! DEFINITION. The commands of the block (one constructor a row of spec/opcode_table.json) and the operations of its
host (R51, R52, R75, R230). -/

namespace Sys2Proof

/-- The five commands (R71). None has a field: every operand is a register or a memory range (R73). -/
inductive Instr where
  /-- CRC8, word 0x00000001 (R105). -/
  | crc8
  /-- BUILD, word 0x00000002 (R120). -/
  | build
  /-- PARSE, word 0x00000003 (R124). -/
  | parse
  /-- ENC1, word 0x00000004 (R164). -/
  | enc1
  /-- ENC4, word 0x00000005 (R168). -/
  | enc4
deriving DecidableEq, Repr

/-- The thirteen allocated registers (R21). -/
inductive RegName where
  | status | cmd | srcLen | cmdId | height | crc | outLen | outHeight | pId | pLen | pOff | pRsvd | pFlags
deriving DecidableEq, Repr

/-- The two byte memories (R40, R41). -/
inductive MemName where
  | src | dst
deriving DecidableEq, Repr

/-- One host access (R51, R52) with the width it is made with, in bytes. R53 gives a meaning to width 4 for registers
and width 1 for memories; the other widths are expressible so that their refusal is. -/
inductive HostAccess where
  | regRead (n width : Nat)
  | regWrite (n width : Nat) (v : Word)
  | memRead (m : MemName) (a width : Nat)
  | memWrite (m : MemName) (a width : Nat) (b : Byte)
deriving DecidableEq, Repr

/-- One operation of the host's program: an access, the polling loop `wait` of R75, or reset (R230: "a host-initiated
step"). -/
inductive HostOp where
  | access (a : HostAccess)
  | wait
  | reset
deriving DecidableEq, Repr

end Sys2Proof
end

