-- ==== Sys2Proof/Decode.lean ====
section
/-! DEFINITION. The command word (R70 to R72): a decoder total on 32-bit words that names what is illegal, and the
encoder. The word is a number written to a register; it has no byte order (R56). -/

namespace Sys2Proof

/-- OP, bits 3:0 (R70). -/
def opField (w : Word) : BitVec 4 := w.extractLsb' 0 4

/-- MBZ, bits 31:4, must be zero (R70). -/
def mbzField (w : Word) : BitVec 28 := w.extractLsb' 4 28

/-- Why a word spells no command (R72). -/
inductive IllegalWord where
  /-- MBZ is not zero. -/
  | mbz
  /-- OP is 0x0 or 0x6 to 0xF. -/
  | op
deriving DecidableEq, Repr

/-- What the decoder answers: a command, or the reason there is none. -/
inductive Decoded where
  | command (i : Instr)
  | illegal (why : IllegalWord)
deriving DecidableEq, Repr

/-- The decode of R71: MBZ is checked, then OP alone tells the command. -/
def decode (w : Word) : Decoded :=
  if mbzField w = 0 then
    match (opField w).toNat with
    | 1 => .command .crc8
    | 2 => .command .build
    | 3 => .command .parse
    | 4 => .command .enc1
    | 5 => .command .enc4
    | _ => .illegal .op
  else .illegal .mbz

/-- The OP value of a command (R71). -/
def Instr.opcode : Instr → BitVec 4
  | .crc8 => 0x1
  | .build => 0x2
  | .parse => 0x3
  | .enc1 => 0x4
  | .enc4 => 0x5

/-- The command word of a command: 28 zero bits above OP (R70). -/
def encode (i : Instr) : Word := (0 : BitVec 28) ++ i.opcode

/-- The host's question, in the table's bit numbering: the command a word of `nbits` bits is decoded to. The command
word has 32 bits; a longer one is none. -/
def decodeTableWord (nbits w : Nat) : Option Instr :=
  if nbits ≤ 32 then
    match decode (BitVec.ofNat 32 (w % 2 ^ nbits)) with
    | .command i => some i
    | .illegal _ => none
  else none

end Sys2Proof
end

