-- ==== Sys2Proof/Machine/Params.lean ====
section
/-! DEFINITION. The fixed parameters the source settles, under the names of the table of R7 and with its values. -/

namespace Sys2Proof.Machine.Param

/-- First header byte. -/
@[simp] abbrev HDR0 : Byte := 0x22
/-- Second header byte. -/
@[simp] abbrev HDR1 : Byte := 0x21
/-- Reserved byte of a Command Frame. -/
@[simp] abbrev RSVD : Byte := 0x00
/-- Footer byte. -/
@[simp] abbrev FTR : Byte := 0xFF
/-- Frame bytes besides the payload. -/
@[simp] abbrev FRAME_OVERHEAD : Nat := 8
/-- Offset of the payload in a frame. -/
@[simp] abbrev PAYLOAD_OFF : Nat := 6
/-- Largest payload a 16-bit length field holds. -/
@[simp] abbrev MAX_PAYLOAD : Nat := 65535
/-- Pixels in a printer line. -/
@[simp] abbrev LINE_PIXELS : Nat := 384
/-- Bytes in a line, 1-bit mode. -/
@[simp] abbrev BPL1 : Nat := 48
/-- Bytes in a line, 4-bit mode. -/
@[simp] abbrev BPL4 : Nat := 192
/-- Minimum printable lines. -/
@[simp] abbrev MIN_LINES : Nat := 86
/-- The 1-bit threshold. -/
@[simp] abbrev THRESH : Nat := 128
/-- Initial value of the CRC register. -/
@[simp] abbrev CRC_INIT : Byte := 0x00
/-- The gray value of the padding rows (R163: "255 (white)"). -/
@[simp] abbrev WHITE : Byte := 255

end Sys2Proof.Machine.Param
end

