-- ==== Sys2Proof/Config.lean ====
section
/-! DEFINITION. What an implementation of the block fixes (R8: the three open parameters) and the free values of the
spec (R236). The parameters settled by the source (R7) stand in Machine/Params.lean. -/

namespace Sys2Proof

/-- The open parameters of R8: the sizes of the two memories and the CRC lookup table (the ROM of R39, 256 entries of
8 bits). A State carries one such record and no step changes it, so a statement about every state is a statement about
every choice of the parameters (log 1). -/
structure Config where
  /-- SRC_SIZE, in bytes (R8, D4). -/
  srcSize : Nat
  /-- DST_SIZE, in bytes (R8, D4). -/
  dstSize : Nat
  /-- CRC8_TABLE (R8, R39, R101, D5). -/
  crc8Table : Vector Byte 256
deriving DecidableEq, Repr

namespace Config

/-- The free draw of a result register read in the busy window (R236: "any 32-bit value for a register ... under no
law"), one value for each count of draws made before it. No body: nothing can be proved of a value of it (log 8). -/
opaque freeWord : Nat → Word

/-- The free draw of a DST byte read in the busy window (R236: "any byte for DST"), as `freeWord` (log 8). -/
opaque freeByte : Nat → Byte

/-- The source's CRC table, which no file of the spec gives (R101: "no entry of it may be assumed"). No body (log 3). -/
opaque romEntry : Byte → Byte

/-- A table given by its entries. -/
def tableOf (entry : Byte → Byte) : Vector Byte 256 :=
  ⟨((List.range 256).map fun i => entry (BitVec.ofNat 8 i)).toArray, by simp⟩

/-- The instance State.reset is built on: memories that hold every raster and every packed buffer HEIGHT can ask for
(384 * 65535 and 192 * 65535 bytes, above the lower bounds D4 recommends), and the source's unknown table.
DESIGN CHOICE (log 2, log 3): R8 leaves all three open. -/
def installed : Config :=
  { srcSize := 25165440, dstSize := 12582720, crc8Table := tableOf romEntry }

end Config
end Sys2Proof
end

