-- ==== Sys2Proof/Machine/State.lean ====
section
/-! DEFINITION. The state of the block and of its host (R46 and log 6), the reasons a step can stop, and the state after
reset (R47). -/

namespace Sys2Proof.Machine

/-- A byte memory: its written bytes, addresses strictly rising. An address that is not listed holds `undef` (R13), so
an entry never equals what an unlisted address reads as. -/
abbrev Memory := List Host.Cell

/-- The sequencer (R37). -/
inductive Sequencer where
  | idle
  /-- A command word latched from CMD, not yet completed. -/
  | pending (w : Word)
deriving DecidableEq, Repr

/-- The error codes of STATUS.ERR (R201); the codes 7 to 15 are never written, and there is no name for them (log 12). -/
inductive ErrCode where
  | ok | illegal | short | header | trunc | len | range
deriving DecidableEq, Repr

/-- The two agents that take steps (R20). -/
inductive Agent where
  | host | block
deriving DecidableEq, Repr

/-- What one host read returned. -/
inductive Observed where
  | reg (n : Nat) (v : Word)
  | mem (m : MemName) (a : Nat) (b : Byte)
deriving DecidableEq, Repr

/-- The whole state: the record of R46, the working register of R38, the configuration (log 1), and the host agent with
the interleaving of the two agents' steps (log 6, log 7, log 8). -/
structure State where
  /-- The parameters of R8; no step changes them. -/
  cfg : Config
  /-- SEQ (R37); STATUS.BUSY is computed from it (R46). -/
  seq : Sequencer
  /-- STATUS.DONE (R22). -/
  done : Bool
  /-- STATUS.ERR (R22). -/
  err : ErrCode
  /-- STATUS.OVR (R22). -/
  ovr : Bool
  /-- SRC_LEN (R24). -/
  srcLen : Word
  /-- CMD_ID[7:0] (R25). -/
  cmdId : Byte
  /-- HEIGHT[15:0] (R26). -/
  height : BitVec 16
  /-- CRC[7:0] (R27). -/
  crc : Byte
  /-- OUT_LEN (R28). -/
  outLen : Word
  /-- OUT_HEIGHT[15:0] (R29). -/
  outHeight : BitVec 16
  /-- P_ID[7:0] (R30). -/
  pId : Byte
  /-- P_LEN[15:0] (R31). -/
  pLen : BitVec 16
  /-- P_OFF[2:0] (R32). -/
  pOff : BitVec 3
  /-- P_RSVD[7:0] (R33). -/
  pRsvd : Byte
  /-- P_FLAGS[2:0]: TRL, FTR_OK, CRC_OK from bit 0 up (R34). -/
  pFlags : BitVec 3
  /-- The CRC working register c (R38). -/
  crcWork : Byte
  /-- SRC (R40). -/
  src : Memory
  /-- DST (R41). -/
  dst : Memory
  /-- The host's remaining operations (R75). -/
  program : List HostOp
  /-- Whose step comes next (R60), as far as it is fixed. -/
  turns : List Agent
  /-- What the host's reads returned, newest first. -/
  transcript : List Observed
  /-- How many free draws were made (R236). -/
  draws : Nat
deriving DecidableEq, Repr

/-- Why the machine stops with a fault. -/
inductive Fault where
  /-- UNINIT (R13, R216): the block in a completion, or the host in a memory read, reads a byte that holds `undef`.
  Safe: the hardware byte would hold some value. -/
  | uninit
  /-- The host accesses a register number >= 16 or an address beyond a memory's end; R54 gives that access no step, so
  the host is stuck there. Raised by a host turn only. Safe. -/
  | hostOutOfRange
deriving DecidableEq, Repr

/-- Why a step has no meaning. -/
inductive Refusal where
  /-- An arm of exec without a meaning; no arm raises it. Safe. -/
  | notModelled (mnemonic : String)
  /-- A host access of another width than R53's, which "a model refuses". Raised by a host turn only. Safe. -/
  | accessWidth
deriving DecidableEq, Repr

/-- The reset values of R47 under a given configuration, no host operation outstanding. `crcWork` is the one register
R47 gives no value (log 4). -/
def State.resetWith (cfg : Config) : State :=
  { cfg := cfg
    seq := .idle
    done := false
    err := .ok
    ovr := false
    srcLen := 0
    cmdId := 0
    height := 0
    crc := 0
    outLen := 0
    outHeight := 0
    pId := 0
    pLen := 0
    pOff := 0
    pRsvd := 0
    pFlags := 0
    crcWork := 0
    src := []
    dst := []
    program := []
    turns := []
    transcript := []
    draws := 0 }

/-- The machine right after reset (R47), on the instance `Config.installed` (log 2, log 3). -/
def State.reset : State := State.resetWith Config.installed

end Sys2Proof.Machine
end

