-- ==== Sys2Proof/Machine/Ops.lean ====
section
/-! DEFINITION. The named operations over memory and registers, and the completion of a command (R209), which plays the
part of exception entry: the error code is all it saves (R200, R210). There is no return (R211): the next issue leaves
the error state. -/

namespace Sys2Proof.Machine

/-! ### Memory (R12, R13, R40, R41) -/

/-- The canonical form: addresses strictly rising. -/
abbrev Memory.wf (m : Memory) : Prop := m.Pairwise fun x y => x.1 < y.1

/-- The byte at an address; `none` is `undef`, what an unlisted address reads as (R13). -/
def Memory.read : Memory → Nat → Option Byte
  | [], _ => none
  | (k, b) :: rest, a => if k = a then some b else Memory.read rest a

/-- The cells of consecutive bytes from an address up. -/
def Memory.cellsAt : Nat → List Byte → Memory
  | _, [] => []
  | a, b :: bs => (a, b) :: Memory.cellsAt (a + 1) bs

/-- Write consecutive bytes from address `a` up; every other address keeps its byte. -/
def Memory.writeRun (m : Memory) (a : Nat) (bs : List Byte) : Memory :=
  m.filter (fun c => c.1 < a) ++ Memory.cellsAt a bs ++ m.filter (fun c => a + bs.length ≤ c.1)

/-- Write one byte. -/
def Memory.write (m : Memory) (a : Nat) (b : Byte) : Memory := m.writeRun a [b]

/-- `n` consecutive bytes from address `a` up, or `none` if one of them is `undef`. -/
def Memory.readRun (m : Memory) : (n a : Nat) → Option (List Byte)
  | 0, _ => some []
  | n + 1, a =>
    match m.read a with
    | none => none
    | some b => (Memory.readRun m n (a + 1)).map (b :: ·)

/-! ### Commands as computations (R12, R14) -/

/-- How a command ends early: `raise Error(E_x)` (R12), or the model fault UNINIT (R216). -/
inductive Abort where
  | error (e : ErrCode)
  | uninit
deriving DecidableEq, Repr

/-- A command's pseudocode: the state with its results written, or the reason it ended early. -/
abbrev Cmd (α : Type) := Except Abort α

/-- `if bad: raise Error(e)` (R12). -/
def raiseIf (bad : Prop) [Decidable bad] (e : ErrCode) : Cmd Unit :=
  if bad then .error (.error e) else .ok ()

/-- `MemRead(SRC, a, 1)` by the block (R12, R57). -/
def State.srcByte (s : State) (a : Nat) : Cmd Byte :=
  match s.src.read a with
  | some b => .ok b
  | none => .error .uninit

/-- SRC[a..a+n), read by the block (R11, R57). -/
def State.srcRun (s : State) (n a : Nat) : Cmd (List Byte) :=
  match s.src.readRun n a with
  | some bs => .ok bs
  | none => .error .uninit

/-! ### Issue and completion (R23, R209) -/

/-- STATUS.BUSY (R22: "Equals SEQ != IDLE"). -/
def State.busy (s : State) : Bool := s.seq != .idle

/-- The issue of a command word (R23). -/
def State.issue (s : State) (w : Word) : State := { s with seq := .pending w, done := false }

/-- The last three lines of R209: the code recorded, DONE set, SEQ idle. -/
def State.complete (s : State) (code : ErrCode) : State := { s with err := code, done := true, seq := .idle }

/-- A command's completion (R209): its results with E_OK; or, if it raised an error, that code and nothing else; or
UNINIT (R216). -/
def finish (s : State) (r : Cmd State) : Host.Outcome State Fault Refusal :=
  match r with
  | .ok t => .next (t.complete .ok)
  | .error (.error e) => .next (s.complete e)
  | .error .uninit => .fault .uninit

/-! ### The result registers a command writes (R44) -/

/-- The end of a CRC computation (R38): the working register holds c, and c is copied to CRC. -/
def State.storeCrc (s : State) (c : Byte) : State := { s with crcWork := c, crc := c }

/-- An output sequence written from DST[0] (R63); OUT_LEN is the number of bytes (R28). -/
def State.storeOutput (s : State) (out : List Byte) : State :=
  { s with dst := s.dst.writeRun 0 out, outLen := BitVec.ofNat 32 out.length }

/-- OUT_HEIGHT (R29). -/
def State.storeOutHeight (s : State) (lines : Nat) : State := { s with outHeight := BitVec.ofNat 16 lines }

/-- The PARSE results besides CRC (R30 to R34); P_OFF is always 6 (R32). -/
def State.storeParsed (s : State) (id : Byte) (len : BitVec 16) (rsvd : Byte) (flags : BitVec 3) : State :=
  { s with pId := id, pLen := len, pOff := BitVec.ofNat 3 Param.PAYLOAD_OFF, pRsvd := rsvd, pFlags := flags }

/-! ### The host's side -/

/-- STATUS.OVR set or cleared (R22, R235). -/
def State.setOvr (s : State) (b : Bool) : State := { s with ovr := b }

/-- SRC_LEN written: all 32 bits (R24). -/
def State.setSrcLen (s : State) (v : Word) : State := { s with srcLen := v }

/-- CMD_ID written: bits 7:0 are stored (R25, R36). -/
def State.setCmdId (s : State) (v : Word) : State := { s with cmdId := v.setWidth 8 }

/-- HEIGHT written: bits 15:0 are stored (R26, R36). -/
def State.setHeight (s : State) (v : Word) : State := { s with height := v.setWidth 16 }

/-- One SRC byte written by the host (R52). -/
def State.setSrcByte (s : State) (a : Nat) (b : Byte) : State := { s with src := s.src.write a b }

/-- A read returns its value to the host. -/
def State.observe (s : State) (o : Observed) : State := { s with transcript := o :: s.transcript }

/-- A free draw was made (R236, log 8). -/
def State.countDraw (s : State) : State := { s with draws := s.draws + 1 }

/-- The host goes on to its next operation. -/
def State.endHostOp (s : State) : State := { s with program := s.program.tail }

/-- The agent whose turn it was has moved. -/
def State.endTurn (s : State) : State := { s with turns := s.turns.tail }

/-- Reset (R230): every piece of the block's state takes its reset value. The configuration is not state, and the
host's own fields stay (log 11). -/
def State.hostReset (s : State) : State :=
  { State.resetWith s.cfg with
    program := s.program, turns := s.turns, transcript := s.transcript, draws := s.draws }

end Sys2Proof.Machine
end

