-- ==== Sys2Proof/Machine/Operands.lean ====
section
/-! DEFINITION. The operand forms of R73: every operand is a register or a memory range, zero-extended, never scaled or
sign-extended; and the little-endian length of R77. -/

namespace Sys2Proof.Machine

/-- SRC_LEN[31:0] as the unsigned count of SRC bytes: n of CRC8 and PARSE, L of BUILD (R73). -/
def State.srcCount (s : State) : Nat := s.srcLen.toNat

/-- H = HEIGHT[15:0], the source rows of ENC1 and ENC4 (R73). -/
def State.rows (s : State) : Nat := s.height.toNat

/-- The raster's size in bytes, 384 * H (R73, R82). -/
def State.rasterBytes (s : State) : Nat := Param.LINE_PIXELS * s.rows

/-- H' = max(H, 86) (R162). -/
def State.paddedRows (s : State) : Nat := max s.rows Param.MIN_LINES

/-- L assembled little-endian from frame bytes 4 and 5 (R77). -/
def lengthField (lo hi : Byte) : BitVec 16 := lo.setWidth 16 ||| (hi.setWidth 16 <<< 8)

/-- L[7:0], frame byte 4 (R77). -/
def lenLo (len : BitVec 16) : Byte := len.extractLsb' 0 8

/-- L[15:8], frame byte 5 (R77). -/
def lenHi (len : BitVec 16) : Byte := len.extractLsb' 8 8

end Sys2Proof.Machine
end

