-- ==== Sys2Proof/Machine/Crc.lean ====
section
/-! DEFINITION. The CRC-8 engine (R100 to R106) and the meaning of CRC8 (R105). -/

namespace Sys2Proof.Machine

/-- One step of the engine: c <- CRC8_TABLE[c XOR b] (R100). -/
def crcStep (cfg : Config) (c b : Byte) : Byte := cfg.crc8Table[(c ^^^ b).toFin]

/-- crc8 of a byte sequence: from CRC_INIT, one step a byte, no final step (R100, R102). -/
def crc8 (cfg : Config) (data : List Byte) : Byte := data.foldl (crcStep cfg) Param.CRC_INIT

/-- The pseudocode of R105. -/
def crc8Command (s : State) : Cmd State := do
  let n := s.srcCount
  raiseIf (n > s.cfg.srcSize) .range
  let data ← s.srcRun n 0
  return s.storeCrc (crc8 s.cfg data)

/-- CRC8 (R105): crc8 of SRC[0..SRC_LEN) into CRC. -/
def execCrc8 (s : State) : Host.Outcome State Fault Refusal := finish s (crc8Command s)

end Sys2Proof.Machine
end

