-- ==== Sys2Proof/Machine/Flags.lean ====
section
/-! DEFINITION. Every flag the spec gives: the STATUS word with its error codes (R22, R201) and P_FLAGS (R34). -/

namespace Sys2Proof.Machine

/-- The 4-bit code of an error (R201). -/
def ErrCode.code : ErrCode → BitVec 4
  | .ok => 0
  | .illegal => 1
  | .short => 2
  | .header => 3
  | .trunc => 4
  | .len => 5
  | .range => 6

/-- The source's single verdict, read off STATUS.ERR (R125). -/
def ErrCode.malformed : ErrCode → Bool
  | .short => true
  | .header => true
  | .trunc => true
  | .ok => false
  | .illegal => false
  | .len => false
  | .range => false

/-- The STATUS word (R22): bits 31:9 zero, OVR 8, ERR 7:4, bits 3:2 zero, DONE 1, BUSY 0. -/
def State.statusWord (s : State) : Word :=
  (0 : BitVec 23) ++ BitVec.ofBool s.ovr ++ s.err.code ++ (0 : BitVec 2) ++ BitVec.ofBool s.done
    ++ BitVec.ofBool s.busy

/-- P_FLAGS as {crcok, ftr, trl}, bits 2, 1, 0 (R124). -/
def parseFlags (crcOk ftrOk trl : Bool) : BitVec 3 :=
  BitVec.ofBool crcOk ++ BitVec.ofBool ftrOk ++ BitVec.ofBool trl

/-- The flags of a raw frame whose bytes after the payload are `trailer` (the CRC byte and the footer byte), or that has
no room for them (R34, R129). -/
def trailerFlags (c : Byte) : Option (Byte × Byte) → BitVec 3
  | none => parseFlags false false false
  | some (crcByte, ftrByte) => parseFlags (crcByte == c) (ftrByte == Param.FTR) true

/-- P_FLAGS.TRL (R34). -/
def State.trl (s : State) : Bool := s.pFlags.getLsbD 0

/-- P_FLAGS.FTR_OK (R34). -/
def State.ftrOk (s : State) : Bool := s.pFlags.getLsbD 1

/-- P_FLAGS.CRC_OK (R34). -/
def State.crcOk (s : State) : Bool := s.pFlags.getLsbD 2

end Sys2Proof.Machine
end

