-- ==== Sys2Proof/Machine/Codec.lean ====
section
/-! DEFINITION. The frame codec: the Command Frame (R76) and the meanings of BUILD (R120) and PARSE (R124). -/

namespace Sys2Proof.Machine

/-- The Command Frame of an id and a payload (R76). -/
def commandFrame (cfg : Config) (id : Byte) (p : List Byte) : List Byte :=
  [Param.HDR0, Param.HDR1, id, Param.RSVD, lenLo (BitVec.ofNat 16 p.length), lenHi (BitVec.ofNat 16 p.length)]
    ++ p ++ [crc8 cfg p, Param.FTR]

/-- The pseudocode of R120. -/
def buildCommand (s : State) : Cmd State := do
  let len := s.srcCount
  raiseIf (len > Param.MAX_PAYLOAD) .len
  raiseIf (len > s.cfg.srcSize) .range
  raiseIf (Param.FRAME_OVERHEAD + len > s.cfg.dstSize) .range
  let p ← s.srcRun len 0
  return (s.storeCrc (crc8 s.cfg p)).storeOutput (commandFrame s.cfg s.cmdId p)

/-- BUILD (R120): the Command Frame of CMD_ID and SRC[0..SRC_LEN) into DST. -/
def execBuild (s : State) : Host.Outcome State Fault Refusal := finish s (buildCommand s)

/-- The CRC byte and the footer byte of a raw frame of `n` bytes with length field `len`, where it has room for them
(R34: `SRC_LEN >= 8 + L`). -/
def trailerBytes (s : State) (n len : Nat) : Cmd (Option (Byte × Byte)) :=
  if n ≥ Param.FRAME_OVERHEAD + len then do
    let crcByte ← s.srcByte (Param.PAYLOAD_OFF + len)
    let ftrByte ← s.srcByte (Param.PAYLOAD_OFF + 1 + len)
    return some (crcByte, ftrByte)
  else
    return none

/-- The pseudocode of R124, with its order of checks and reads (R208). -/
def parseNotification (s : State) : Cmd State := do
  let n := s.srcCount
  raiseIf (n > s.cfg.srcSize) .range
  raiseIf (n < 2) .short
  let hdr0 ← s.srcByte 0
  let hdr1 ← s.srcByte 1
  raiseIf (hdr0 ≠ Param.HDR0 ∨ hdr1 ≠ Param.HDR1) .header
  raiseIf (n < Param.PAYLOAD_OFF) .trunc
  let lo ← s.srcByte 4
  let hi ← s.srcByte 5
  let len := lengthField lo hi
  raiseIf (n < Param.PAYLOAD_OFF + len.toNat) .trunc
  let id ← s.srcByte 2
  let rsv ← s.srcByte 3
  let payload ← s.srcRun len.toNat Param.PAYLOAD_OFF
  let c := crc8 s.cfg payload
  let trailer ← trailerBytes s n len.toNat
  return (s.storeCrc c).storeParsed id len rsv (trailerFlags c trailer)

/-- PARSE (R124): validate SRC[0..SRC_LEN) and report its fields. -/
def execParse (s : State) : Host.Outcome State Fault Refusal := finish s (parseNotification s)

end Sys2Proof.Machine
end

