-- ==== Sys2Proof/Machine/Pixels.lean ====
section
/-! DEFINITION. The pixel encoder: padding (R162, R163), the two packings (R165, R166, R169, R170) and the meanings of
ENC1 (R164) and ENC4 (R168). -/

namespace Sys2Proof.Machine

/-- The dark predicate of the 1-bit packing (R165). -/
def dark (gray : Byte) : Bool := gray.toNat < Param.THRESH

/-- The 4-bit level of a gray value, (255 - gray) >> 4 (R169). -/
def level4 (gray : Byte) : BitVec 4 := ((255 - gray) >>> 4).setWidth 4

/-- Eight pixels in a byte, the first in bit 0 (R166): folded from the last pixel, each earlier one pushes the later
ones up a bit. -/
def packByte1 (px : List Byte) : Byte :=
  px.foldr (fun gray acc => acc <<< 1 ||| (BitVec.ofBool (dark gray)).setWidth 8) 0

/-- Two pixels in a byte, the first (even) one in the high nibble (R170). -/
def packByte4 (px : List Byte) : Byte :=
  px.foldl (fun acc gray => acc <<< 4 ||| (level4 gray).setWidth 8) 0

/-- `size` packed bytes of consecutive groups of `per` pixels (R166, R170: pixel p goes to byte p / per). -/
def packLines (per : Nat) (pack : List Byte → Byte) : (size : Nat) → (px : List Byte) → List Byte
  | 0, _ => []
  | size + 1, px => pack (px.take per) :: packLines per pack size (px.drop per)

/-- The padded raster (R163): `rows` rows of the raster, then white rows down to the padded height. -/
def paddedRaster (rows paddedRows : Nat) (raster : List Byte) : List Byte :=
  raster ++ List.replicate (Param.LINE_PIXELS * (paddedRows - rows)) Param.WHITE

/-- The pseudocode R164 and R168 share: `bpl` bytes a line, `per` pixels a byte, packed by `pack`. -/
def encodePixels (bpl per : Nat) (pack : List Byte → Byte) (s : State) : Cmd State := do
  raiseIf (s.rasterBytes > s.cfg.srcSize) .range
  let size := bpl * s.paddedRows
  raiseIf (size > s.cfg.dstSize) .range
  let raster ← s.srcRun s.rasterBytes 0
  return (s.storeOutput (packLines per pack size (paddedRaster s.rows s.paddedRows raster))).storeOutHeight s.paddedRows

/-- ENC1 (R164): 1 bit a pixel, 48 bytes a line. -/
def execEnc1 (s : State) : Host.Outcome State Fault Refusal := finish s (encodePixels Param.BPL1 8 packByte1 s)

/-- ENC4 (R168): 4 bits a pixel, 192 bytes a line. -/
def execEnc4 (s : State) : Host.Outcome State Fault Refusal := finish s (encodePixels Param.BPL4 2 packByte4 s)

end Sys2Proof.Machine
end

