-- ==== Sys2Proof/Machine/Completion.lean ====
section
/-! DEFINITION. The block's step (R37, R209): decode the latched word, run the command, or complete with E_ILLEGAL. -/

namespace Sys2Proof.Machine

/-- The completion of a latched word (R209). A word that spells no command reads no operand and writes no result
(R72, R202). -/
def completeWord (w : Word) (s : State) : Host.Outcome State Fault Refusal :=
  match decode w with
  | .command i => exec i s
  | .illegal _ => finish s (.error (.error .illegal))

/-- A turn of the block: "The block step exists only when SEQ = PENDING(w)" (R37); an idle block changes nothing
(log 7). -/
def blockTurn (s : State) : Host.Outcome State Fault Refusal :=
  match s.seq with
  | .idle => .next s
  | .pending w => completeWord w s

end Sys2Proof.Machine
end

