-- ==== Sys2Proof/WellFormed.lean ====
section
/-! DEFINITION. Which terms the rules give a meaning: every command; a command word whose MBZ field is zero and whose
OP is allocated (R71, R72); a host access of the width of R53 within the range of R54. -/

namespace Sys2Proof

/-- A command has no operand field, so each of the five is well formed (R70: "There are no register fields and no
immediates in the word"). -/
def Instr.wf : Instr → Bool
  | .crc8 => true
  | .build => true
  | .parse => true
  | .enc1 => true
  | .enc4 => true

/-- The words that spell a command: MBZ (bits 31:4) zero and OP (bits 3:0) from 1 to 5 (R71, R72). -/
def cmdWordWf (w : Word) : Bool :=
  w.extractLsb' 4 28 == 0 && 1 ≤ (w.extractLsb' 0 4).toNat && (w.extractLsb' 0 4).toNat ≤ 5

/-- The width of R53: a register access moves one 32-bit word, a memory access one byte. -/
def HostAccess.widthOk : HostAccess → Bool
  | .regRead _ width => width == 4
  | .regWrite _ width _ => width == 4
  | .memRead _ _ width => width == 1
  | .memWrite _ _ width _ => width == 1

/-- The capacity of a memory (R40, R41). -/
def Config.size (cfg : Config) : MemName → Nat
  | .src => cfg.srcSize
  | .dst => cfg.dstSize

/-- The range of R54: register numbers 0 to 15, SRC and DST addresses below the memory's size. -/
def HostAccess.inRange (cfg : Config) : HostAccess → Bool
  | .regRead n _ => n < 16
  | .regWrite n _ _ => n < 16
  | .memRead m a _ => a < cfg.size m
  | .memWrite m a _ _ => a < cfg.size m

/-- A host access the rules give a step. -/
def HostAccess.wf (cfg : Config) (a : HostAccess) : Bool := a.widthOk && a.inRange cfg

/-- A host operation the rules give a step: `wait` and reset always have one. -/
def HostOp.wf (cfg : Config) : HostOp → Bool
  | .access a => a.wf cfg
  | .wait => true
  | .reset => true

end Sys2Proof
end

