-- ==== Sys2Proof/Machine/HostPort.lean ====
section
/-! DEFINITION. The host's steps: register accesses (R21 to R36, R51), memory accesses (R52), widths and ranges (R53,
R54), the busy window (R234 to R236), polling (R75), reset (R230), and whose step comes next (R60, log 7). -/

namespace Sys2Proof.Machine

/-- The number of an allocated register (R21). -/
def regNumber : RegName → Nat
  | .status => 0
  | .cmd => 1
  | .srcLen => 2
  | .cmdId => 3
  | .height => 4
  | .crc => 5
  | .outLen => 6
  | .outHeight => 7
  | .pId => 8
  | .pLen => 9
  | .pOff => 10
  | .pRsvd => 11
  | .pFlags => 12

/-- The register at a number; none is allocated above 12 (R21, R35). -/
def regAt : Nat → Option RegName
  | 0 => some .status
  | 1 => some .cmd
  | 2 => some .srcLen
  | 3 => some .cmdId
  | 4 => some .height
  | 5 => some .crc
  | 6 => some .outLen
  | 7 => some .outHeight
  | 8 => some .pId
  | 9 => some .pLen
  | 10 => some .pOff
  | 11 => some .pRsvd
  | 12 => some .pFlags
  | _ => none

/-- What a register holds, as the 32-bit word a read returns outside the hazard of R236: reserved bits zero, CMD zero
(R22 to R34, R36, R51). -/
def State.regValue (s : State) : RegName → Word
  | .status => s.statusWord
  | .cmd => 0
  | .srcLen => s.srcLen
  | .cmdId => s.cmdId.setWidth 32
  | .height => s.height.setWidth 32
  | .crc => s.crc.setWidth 32
  | .outLen => s.outLen
  | .outHeight => s.outHeight.setWidth 32
  | .pId => s.pId.setWidth 32
  | .pLen => s.pLen.setWidth 32
  | .pOff => s.pOff.setWidth 32
  | .pRsvd => s.pRsvd.setWidth 32
  | .pFlags => s.pFlags.setWidth 32

/-- The result registers, which R236 lists: their reads are drawn while BUSY = 1. -/
def isResultReg : RegName → Bool
  | .status => false
  | .cmd => false
  | .srcLen => false
  | .cmdId => false
  | .height => false
  | .crc => true
  | .outLen => true
  | .outHeight => true
  | .pId => true
  | .pLen => true
  | .pOff => true
  | .pRsvd => true
  | .pFlags => true

/-- RegRead(n) of a number below 16 (R51): no effect but the value returned (R59). An unallocated number reads 0
(R35). -/
def State.readReg (s : State) (n : Nat) : State :=
  match regAt n with
  | none => s.observe (.reg n 0)
  | some r =>
    if s.busy && isResultReg r then (s.observe (.reg n (Config.freeWord s.draws))).countDraw
    else s.observe (.reg n (s.regValue r))

/-- A host write that needs the block idle: performed, or dropped with OVR set (R235). -/
def State.unlessBusy (s t : State) : State := if s.busy then s.setOvr true else t

/-- RegWrite(n, v) of a number below 16 (R51): STATUS is W1C in bit 8 and accepted busy or not (R22); CMD issues (R23);
the operand registers store their used bits (R24 to R26); every other number ignores the write (R35, R59). -/
def State.writeReg (s : State) (n : Nat) (v : Word) : State :=
  match regAt n with
  | some .status => if v.getLsbD 8 then s.setOvr false else s
  | some .cmd => s.unlessBusy (s.issue v)
  | some .srcLen => s.unlessBusy (s.setSrcLen v)
  | some .cmdId => s.unlessBusy (s.setCmdId v)
  | some .height => s.unlessBusy (s.setHeight v)
  | some .crc => s
  | some .outLen => s
  | some .outHeight => s
  | some .pId => s
  | some .pLen => s
  | some .pOff => s
  | some .pRsvd => s
  | some .pFlags => s
  | none => s

/-- A byte returned to the host; an `undef` byte is the model fault UNINIT (R52). -/
def State.returnByte (s : State) (m : MemName) (a : Nat) : Option Byte → Host.Outcome State Fault Refusal
  | some b => .next (s.observe (.mem m a b))
  | none => .fault .uninit

/-- MemRead(m, a, 1) by the host, in range (R52). A DST byte read while BUSY = 1 is drawn (R236), `undef` or not
(log 13). -/
def State.readMem (s : State) (m : MemName) (a : Nat) : Host.Outcome State Fault Refusal :=
  match m with
  | .src => s.returnByte .src a (s.src.read a)
  | .dst =>
    if s.busy then .next (s.observe (.mem .dst a (Config.freeByte s.draws))).countDraw
    else s.returnByte .dst a (s.dst.read a)

/-- MemWrite(m, a, 1, b) by the host, in range (R52): SRC is written unless busy; a write to DST is ignored. -/
def State.writeMem (s : State) (m : MemName) (a : Nat) (b : Byte) : State :=
  match m with
  | .src => s.unlessBusy (s.setSrcByte a b)
  | .dst => s

/-- A host access of a legal width and in range. -/
def State.performAccess (s : State) : HostAccess → Host.Outcome State Fault Refusal
  | .regRead n _ => .next (s.readReg n)
  | .regWrite n _ v => .next (s.writeReg n v)
  | .memRead m a _ => s.readMem m a
  | .memWrite m a _ b => .next (s.writeMem m a b)

/-- A host access: refused if its width is not R53's, stuck if it is out of range (R54), else performed. -/
def State.hostAccess (s : State) (a : HostAccess) : Host.Outcome State Fault Refusal :=
  if a.widthOk = false then .refused .accessWidth
  else if a.inRange s.cfg = false then .fault .hostOutOfRange
  else s.performAccess a

/-- One host operation, the head of the program. `wait` reads STATUS and stays at the head until bit 0 of the value read
is 0 (R75); reset may come at any point (R230). -/
def State.hostOperation (s : State) : HostOp → Host.Outcome State Fault Refusal
  | .access a => s.endHostOp.hostAccess a
  | .wait => .next (if s.statusWord.getLsbD 0 then s.readReg 0 else (s.readReg 0).endHostOp)
  | .reset => .next s.endHostOp.hostReset

/-- A turn of the host; a host with no operation left changes nothing (log 7). -/
def hostTurn (s : State) : Host.Outcome State Fault Refusal :=
  match s.program with
  | [] => .next s
  | op :: _ => s.hostOperation op

/-- Whose step comes next (R60): the first of the listed turns; with none listed, a pending command completes before the
host moves again (R233's weak fairness, log 7). -/
def State.mover (s : State) : Agent :=
  match s.turns with
  | a :: _ => a
  | [] => if s.busy then .block else .host

end Sys2Proof.Machine
end

