-- ==== Sys2Proof/Machine/HostProgram.lean ====
section
/-! DEFINITION. The host program syntax of R75: the five accesses and the expansions of the pseudo-instructions. -/

namespace Sys2Proof.Machine.HostProgram

/-- `wr NAME, imm`. -/
def wr (r : RegName) (imm : Word) : HostOp := .access (.regWrite (regNumber r) 4 imm)

/-- `rd NAME`. -/
def rd (r : RegName) : HostOp := .access (.regRead (regNumber r) 4)

/-- `wsrc a, b`. -/
def wsrc (a : Nat) (b : Byte) : HostOp := .access (.memWrite .src a 1 b)

/-- `rsrc a`. -/
def rsrc (a : Nat) : HostOp := .access (.memRead .src a 1)

/-- `rdst a`. -/
def rdst (a : Nat) : HostOp := .access (.memRead .dst a 1)

/-- `wsrc a, b0 b1 ... bk`: one `wsrc` a byte, addresses rising. -/
def wsrcs : Nat → List Byte → List HostOp
  | _, [] => []
  | a, b :: bs => wsrc a b :: wsrcs (a + 1) bs

/-- `issue M`. -/
def issue (i : Instr) : HostOp := wr .cmd (encode i)

/-- `run M`. -/
def run (i : Instr) : List HostOp := [issue i, .wait]

/-- `clrovr`. -/
def clrovr : HostOp := wr .status 0x00000100

/-- `rdst a..b`. -/
def rdsts (a b : Nat) : List HostOp := (List.range (b - a)).map fun i => rdst (a + i)

/-- `wfill a..b, v`. -/
def wfill (a b : Nat) (v : Byte) : List HostOp := wsrcs a (List.replicate (b - a) v)

end Sys2Proof.Machine.HostProgram
end

