-- ==== Sys2Proof/Machine/Step.lean ====
section
/-! DEFINITION. One step of the machine, and the word that the next step runs. -/

namespace Sys2Proof.Machine

/-- One step of the total order of R60: the agent whose turn it is moves. -/
def step (s : State) : Host.Outcome State Fault Refusal :=
  match s.mover with
  | .block => blockTurn s.endTurn
  | .host => hostTurn s.endTurn

/-- The issue of the word `w` (R23), with the block's turn next, so that the very next step is its completion. A
schedule whose next turn is the block's, or that is used up, stays as it is (log 10). -/
def State.withFetchWord (s : State) (nbits w : Nat) : State :=
  { s.issue (BitVec.ofNat 32 (w % 2 ^ nbits)) with
    turns := match s.turns with
      | .host :: rest => .block :: .host :: rest
      | turns => turns }

end Sys2Proof.Machine
end

