-- ==== Sys2Proof/Safety.lean ====
section
/-! DEFINITION. What a legal state and a safe run are, in the terms the statements use. -/

namespace Sys2Proof.Machine

/-- Memory `m` holds the bytes `bs` from address `a` up. -/
abbrev Memory.holds (m : Memory) (a : Nat) (bs : List Byte) : Prop := ∀ i < bs.length, m.read (a + i) = bs[i]?

/-- Every listed address lies below a size (R40, R41). -/
abbrev Memory.fits (m : Memory) (size : Nat) : Prop := ∀ c ∈ m, c.1 < size

/-- The first `n` SRC bytes were written since reset (R232: "write every SRC byte the command will read"). -/
abbrev State.srcDefined (s : State) (n : Nat) : Prop := ∀ i < n, (s.src.read i).isSome

/-- The legal values of OUT_LEN (R28), and the reset value. -/
abbrev legalOutLen (n : Nat) : Prop :=
  n = 0 ∨ (8 ≤ n ∧ n ≤ 65543) ∨ ∃ h, 86 ≤ h ∧ h ≤ 65535 ∧ (n = 48 * h ∨ n = 192 * h)

/-- The states the rules allow. -/
structure State.Inv (s : State) : Prop where
  /-- SRC is in canonical form. -/
  src_wf : s.src.wf
  /-- DST is in canonical form. -/
  dst_wf : s.dst.wf
  /-- SRC holds addresses 0 to SRC_SIZE - 1 only (R40). -/
  src_fits : s.src.fits s.cfg.srcSize
  /-- DST holds addresses 0 to DST_SIZE - 1 only (R41). -/
  dst_fits : s.dst.fits s.cfg.dstSize
  /-- BUSY = 1 goes with DONE = 0 (R22, R23). -/
  busy_not_done : s.busy = true → s.done = false
  /-- OUT_LEN has a legal value (R28). -/
  outLen_legal : legalOutLen s.outLen.toNat
  /-- The OUT_LEN bytes written from DST[0] are there (R28, R63). -/
  out_defined : ∀ a < s.outLen.toNat, (s.dst.read a).isSome
  /-- OUT_HEIGHT is at least 86 after an encode (R29). -/
  outHeight_legal : s.outHeight = 0 ∨ 86 ≤ s.outHeight.toNat
  /-- P_OFF is 6 after a PARSE (R32). -/
  pOff_legal : s.pOff = 0 ∨ s.pOff = 6
  /-- FTR_OK and CRC_OK are 1 only when TRL is (R34). -/
  flags_legal : s.ftrOk = true ∨ s.crcOk = true → s.trl = true

/-- A safe run: `n` steps, none of which stops. -/
def State.runsSafely (n : Nat) (s : State) : Prop := ∃ t, Sys2Proof.core.run n s = .next t

end Sys2Proof.Machine
end

