-- ==== Sys2Proof/Certificates/Slice0/Obligations.lean ====
section
/-! DEFINITION. The statements for the provers. OBLIGATIONS.json says of each what it formalises. The fields `turns`,
`program`, `transcript` and `draws` are the model's own host (logs 6 to 8); what a statement says of them, and of the
working register `crcWork` (log 4), is the model's. -/

open Sys2Proof Sys2Proof.Machine

/-! ### Steps, words, decoding -/

/-- R37, R209: when the block has the turn and the latched word decodes to a command, the step is exec of that command,
on the state whose turn is used up (log 7 names the turns as the model's own). -/
def Obligations.StepRunsDecodedCommand : Prop :=
  ∀ (s : State) (w : Word) (i : Instr),
    s.turns = [] ∨ s.turns.head? = some .block → s.seq = .pending w → decode w = .command i → i.wf = true →
    step s = exec i { s with turns := s.turns.tail }

/-- The model's convention of log 10: after `withFetchWord` the very next step runs that word's command, on a state that
differs from the given one by the issue of R23 and by the turns alone. -/
def Obligations.FetchWordRunsNext : Prop :=
  ∀ (s : State) (i : Instr), ∃ turns : List Agent,
    step (s.withFetchWord 32 (encode i).toNat) =
      exec i { s with seq := .pending (encode i), done := false, turns := turns }

/-- R71, R72: the five command words, written out, decode to their commands, and eight illegal ones to none. -/
def Obligations.CommandWordsDecode : Prop :=
  decodeTableWord 32 0x00000001 = some .crc8 ∧ decodeTableWord 32 0x00000002 = some .build ∧
  decodeTableWord 32 0x00000003 = some .parse ∧ decodeTableWord 32 0x00000004 = some .enc1 ∧
  decodeTableWord 32 0x00000005 = some .enc4 ∧ decodeTableWord 32 0x00000000 = none ∧
  decodeTableWord 32 0x00000006 = none ∧ decodeTableWord 32 0x0000000F = none ∧
  decodeTableWord 32 0x00000010 = none ∧ decodeTableWord 32 0x00000011 = none ∧
  decodeTableWord 32 0x00000105 = none ∧ decodeTableWord 32 0x80000001 = none ∧
  decodeTableWord 32 0xFFFFFFFF = none

/-- R71: over all 2^32 words, each command has exactly one word, and the words that spell none are 0 and those from 6
up. -/
def Obligations.DecodeIsTheOpcodeMap : Prop :=
  ∀ w : Word,
    (decode w = .command .crc8 ↔ w = 0x00000001) ∧ (decode w = .command .build ↔ w = 0x00000002) ∧
    (decode w = .command .parse ↔ w = 0x00000003) ∧ (decode w = .command .enc1 ↔ w = 0x00000004) ∧
    (decode w = .command .enc4 ↔ w = 0x00000005) ∧
    ((∃ why, decode w = .illegal why) ↔ w = 0x00000000 ∨ 6 ≤ w.toNat)

/-- R70, R71: decode of encode is the identity on commands, and a word that decodes to a command is its encoding. -/
def Obligations.DecodeEncodeAgree : Prop :=
  (∀ i : Instr, i.wf = true → decode (encode i) = .command i ∧ decodeTableWord 32 (encode i).toNat = some i) ∧
  (∀ (w : Word) (i : Instr), decode w = .command i → w = encode i) ∧
  (∀ w : Word, cmdWordWf w = true ↔ ∃ i, decode w = .command i)

/-- R202: a latched word with w[31:4] not zero, or w[3:0] zero or from 6 to 15, completes with E_ILLEGAL and changes
nothing but STATUS and SEQ, whatever the operands and memories hold. The premise on the turns and their new value are
the model's own choice, log 7. -/
def Obligations.IllegalWordCompletesIllegal : Prop :=
  ∀ (s : State) (w : Word),
    s.turns = [] ∨ s.turns.head? = some .block → s.seq = .pending w →
    w >>> 4 ≠ 0 ∨ w &&& 0xF = 0 ∨ 6 ≤ (w &&& 0xF).toNat →
    step s = .next { s with turns := s.turns.tail, err := .illegal, done := true, seq := .idle }

/-! ### CRC8 -/

/-- R105, R100: with SRC_LEN in range and the data in SRC, CRC8 completes; CRC holds the left fold of the table over
the data, whatever the table; nothing else but STATUS, SEQ and the working register changes. That the working register
holds the same value (R38) is the model's deduction, log 4. -/
def Obligations.Crc8Completes : Prop :=
  ∀ (s : State) (data : List Byte),
    data.length = s.srcLen.toNat → s.srcLen.toNat ≤ s.cfg.srcSize → s.src.holds 0 data →
    exec .crc8 s = .next { s with
      crc := data.foldl (fun c b => s.cfg.crc8Table[(c ^^^ b).toFin]) 0
      crcWork := data.foldl (fun c b => s.cfg.crc8Table[(c ^^^ b).toFin]) 0
      err := .ok
      done := true
      seq := .idle }

/-- R104: the four consequences, for every table. -/
def Obligations.Crc8FoldLaws : Prop :=
  ∀ cfg : Config,
    crc8 cfg [] = 0x00 ∧
    (∀ b : Byte, crc8 cfg [b] = cfg.crc8Table[b.toFin]) ∧
    (∀ (p : List Byte) (b : Byte), crc8 cfg (p ++ [b]) = cfg.crc8Table[(crc8 cfg p ^^^ b).toFin]) ∧
    crc8 cfg [0x00] = cfg.crc8Table[(0x00 : Byte).toFin]

/-! ### Errors -/

/-- R207: E_RANGE of each command, with no premise on what SRC holds; only STATUS and SEQ change. -/
def Obligations.RangeErrors : Prop :=
  ∀ s : State,
    (s.srcLen.toNat > s.cfg.srcSize →
      exec .crc8 s = .next { s with err := .range, done := true, seq := .idle } ∧
      exec .parse s = .next { s with err := .range, done := true, seq := .idle }) ∧
    (s.srcLen.toNat ≤ 65535 → s.srcLen.toNat > s.cfg.srcSize ∨ 8 + s.srcLen.toNat > s.cfg.dstSize →
      exec .build s = .next { s with err := .range, done := true, seq := .idle }) ∧
    (384 * s.height.toNat > s.cfg.srcSize ∨ 48 * max s.height.toNat 86 > s.cfg.dstSize →
      exec .enc1 s = .next { s with err := .range, done := true, seq := .idle }) ∧
    (384 * s.height.toNat > s.cfg.srcSize ∨ 192 * max s.height.toNat 86 > s.cfg.dstSize →
      exec .enc4 s = .next { s with err := .range, done := true, seq := .idle })

/-- R206: BUILD of more than 65535 bytes reports E_LEN before any other check; nothing else changes. -/
def Obligations.BuildRefusesLongPayload : Prop :=
  ∀ s : State, s.srcLen.toNat > 65535 →
    exec .build s = .next { s with err := .len, done := true, seq := .idle }

/-- R203: E_SHORT, no SRC byte read. -/
def Obligations.ParseShort : Prop :=
  ∀ s : State, s.srcLen.toNat ≤ s.cfg.srcSize → s.srcLen.toNat < 2 →
    exec .parse s = .next { s with err := .short, done := true, seq := .idle }

/-- R204: E_HEADER, from bytes 0 and 1 alone. -/
def Obligations.ParseHeaderMismatch : Prop :=
  ∀ (s : State) (b0 b1 : Byte), s.srcLen.toNat ≤ s.cfg.srcSize → 2 ≤ s.srcLen.toNat →
    s.src.read 0 = some b0 → s.src.read 1 = some b1 → b0 ≠ 0x22 ∨ b1 ≠ 0x21 →
    exec .parse s = .next { s with err := .header, done := true, seq := .idle }

/-- R205: E_TRUNC, in its two forms, with L the little-endian length of bytes 4 and 5. -/
def Obligations.ParseTruncated : Prop :=
  ∀ s : State, s.srcLen.toNat ≤ s.cfg.srcSize → 2 ≤ s.srcLen.toNat →
    s.src.read 0 = some 0x22 → s.src.read 1 = some 0x21 →
    (s.srcLen.toNat < 6 → exec .parse s = .next { s with err := .trunc, done := true, seq := .idle }) ∧
    (∀ lo hi : Byte, 6 ≤ s.srcLen.toNat → s.src.read 4 = some lo → s.src.read 5 = some hi →
      s.srcLen.toNat < 6 + (lo.toNat + 256 * hi.toNat) →
      exec .parse s = .next { s with err := .trunc, done := true, seq := .idle })

/-- R13, R57, R216: once a command's checks pass, one `undef` byte it reads is the model fault UNINIT; PARSE also faults
between its checks (R208). -/
def Obligations.UndefinedBytesFault : Prop :=
  ∀ s : State,
    (∀ i, s.srcLen.toNat ≤ s.cfg.srcSize → i < s.srcLen.toNat → s.src.read i = none →
      exec .crc8 s = .fault .uninit) ∧
    (∀ i, s.srcLen.toNat ≤ 65535 → s.srcLen.toNat ≤ s.cfg.srcSize → 8 + s.srcLen.toNat ≤ s.cfg.dstSize →
      i < s.srcLen.toNat → s.src.read i = none → exec .build s = .fault .uninit) ∧
    (∀ i, 384 * s.height.toNat ≤ s.cfg.srcSize → 48 * max s.height.toNat 86 ≤ s.cfg.dstSize →
      i < 384 * s.height.toNat → s.src.read i = none → exec .enc1 s = .fault .uninit) ∧
    (∀ i, 384 * s.height.toNat ≤ s.cfg.srcSize → 192 * max s.height.toNat 86 ≤ s.cfg.dstSize →
      i < 384 * s.height.toNat → s.src.read i = none → exec .enc4 s = .fault .uninit) ∧
    (s.srcLen.toNat ≤ s.cfg.srcSize → 2 ≤ s.srcLen.toNat → s.src.read 0 = none ∨ s.src.read 1 = none →
      exec .parse s = .fault .uninit) ∧
    (s.srcLen.toNat ≤ s.cfg.srcSize → 6 ≤ s.srcLen.toNat → s.src.read 0 = some 0x22 → s.src.read 1 = some 0x21 →
      s.src.read 4 = none ∨ s.src.read 5 = none → exec .parse s = .fault .uninit) ∧
    (∀ (lo hi : Byte) (i : Nat), s.srcLen.toNat ≤ s.cfg.srcSize → s.src.read 0 = some 0x22 →
      s.src.read 1 = some 0x21 → s.src.read 4 = some lo → s.src.read 5 = some hi →
      6 + (lo.toNat + 256 * hi.toNat) ≤ s.srcLen.toNat → s.src.read i = none →
      i < 6 + (lo.toNat + 256 * hi.toNat) ∨
        (i < 8 + (lo.toNat + 256 * hi.toNat) ∧ 8 + (lo.toNat + 256 * hi.toNat) ≤ s.srcLen.toNat) →
      exec .parse s = .fault .uninit)

/-! ### The frame codec -/

/-- R120, R122, R76, R63: BUILD completes and DST holds the Command Frame byte by byte, OUT_LEN and CRC are written, and
every DST byte past the frame and every other piece of state but STATUS, SEQ and the working register keeps its value.
That the working register holds the CRC (R38) is the model's deduction, log 4. -/
def Obligations.BuildWritesFrame : Prop :=
  ∀ (s : State) (p : List Byte),
    p.length = s.srcLen.toNat → p.length ≤ 65535 → p.length ≤ s.cfg.srcSize → 8 + p.length ≤ s.cfg.dstSize →
    s.src.holds 0 p →
    ∃ t : State, exec .build s = .next t ∧
      t = { s with
        dst := t.dst
        outLen := BitVec.ofNat 32 (8 + p.length)
        crc := crc8 s.cfg p
        crcWork := crc8 s.cfg p
        err := .ok
        done := true
        seq := .idle } ∧
      t.dst.read 0 = some 0x22 ∧ t.dst.read 1 = some 0x21 ∧ t.dst.read 2 = some s.cmdId ∧
      t.dst.read 3 = some 0x00 ∧ t.dst.read 4 = some (s.srcLen.extractLsb' 0 8) ∧
      t.dst.read 5 = some (s.srcLen.extractLsb' 8 8) ∧
      (∀ i < p.length, t.dst.read (6 + i) = p[i]?) ∧
      t.dst.read (6 + p.length) = some (crc8 s.cfg p) ∧ t.dst.read (7 + p.length) = some 0xFF ∧
      ∀ a, 8 + p.length ≤ a → t.dst.read a = s.dst.read a

/-- R123: the CRC byte of a frame depends on the payload alone: two BUILDs under one table with the same payload and
any ids, registers and DST contents write the same CRC byte and the same CRC. -/
def Obligations.BuildCrcIgnoresId : Prop :=
  ∀ s₁ s₂ t₁ t₂ : State,
    s₁.cfg.crc8Table = s₂.cfg.crc8Table → s₁.srcLen = s₂.srcLen →
    (∀ a < s₁.srcLen.toNat, s₁.src.read a = s₂.src.read a) →
    exec .build s₁ = .next t₁ → exec .build s₂ = .next t₂ → t₁.err = .ok → t₂.err = .ok →
    t₁.crc = t₂.crc ∧ t₁.dst.read (6 + s₁.srcLen.toNat) = some t₁.crc ∧
      t₂.dst.read (6 + s₁.srcLen.toNat) = some t₁.crc

/-- R124, R126, R128, R129, R131: PARSE of a well-formed raw frame completes with its id, length, reserved byte (any
value), payload offset, payload CRC and trailer flags; bytes past the trailer need not even be defined; nothing else but
STATUS, SEQ and the working register changes. That the working register holds the payload's CRC (R38) is the model's
deduction, log 4. -/
def Obligations.ParseReportsFrame : Prop :=
  ∀ (s : State) (id rsv lo hi : Byte) (payload : List Byte),
    s.srcLen.toNat ≤ s.cfg.srcSize → payload.length = lo.toNat + 256 * hi.toNat →
    6 + payload.length ≤ s.srcLen.toNat → s.src.holds 0 ([0x22, 0x21, id, rsv, lo, hi] ++ payload) →
    let after (flags : BitVec 3) : State := { s with
      pId := id
      pLen := BitVec.ofNat 16 payload.length
      pOff := 6
      pRsvd := rsv
      pFlags := flags
      crc := crc8 s.cfg payload
      crcWork := crc8 s.cfg payload
      err := .ok
      done := true
      seq := .idle }
    (s.srcLen.toNat < 8 + payload.length → exec .parse s = .next (after 0)) ∧
    (∀ crcByte ftrByte : Byte, 8 + payload.length ≤ s.srcLen.toNat →
      s.src.read (6 + payload.length) = some crcByte → s.src.read (7 + payload.length) = some ftrByte →
      ∃ flags : BitVec 3, exec .parse s = .next (after flags) ∧ flags.getLsbD 0 = true ∧
        flags.getLsbD 1 = decide (ftrByte = 0xFF) ∧ flags.getLsbD 2 = decide (crcByte = crc8 s.cfg payload))

/-- R124, R125, R130: on a defined raw buffer in range PARSE always completes, with E_OK exactly when the length and
header checks pass (no trailer byte enters), and otherwise with one of the three codes that are the source's
Malformed. -/
def Obligations.ParseVerdict : Prop :=
  ∀ s : State, s.srcLen.toNat ≤ s.cfg.srcSize → s.srcDefined s.srcLen.toNat →
    ∃ t, exec .parse s = .next t ∧
      (t.err = .ok ↔ 6 ≤ s.srcLen.toNat ∧ s.src.read 0 = some 0x22 ∧ s.src.read 1 = some 0x21 ∧
        ∀ lo hi : Byte, s.src.read 4 = some lo → s.src.read 5 = some hi →
          6 + (lo.toNat + 256 * hi.toNat) ≤ s.srcLen.toNat) ∧
      (t.err = .ok ∨ t.err.malformed = true)

/-- R132: PARSE inverts BUILD, for every id and every payload BUILD accepts: copy the frame to SRC (in any state with
the same parameters), set SRC_LEN to its length, and PARSE recovers id, length and payload, with all three flags set. -/
def Obligations.ParseInvertsBuild : Prop :=
  ∀ s t u : State,
    exec .build s = .next t → t.err = .ok → u.cfg = s.cfg → 8 + s.srcLen.toNat ≤ s.cfg.srcSize →
    u.srcLen.toNat = 8 + s.srcLen.toNat → (∀ a < 8 + s.srcLen.toNat, u.src.read a = t.dst.read a) →
    ∃ v, exec .parse u = .next v ∧ v.err = .ok ∧ v.pId = s.cmdId ∧ v.pLen.toNat = s.srcLen.toNat ∧ v.pOff = 6 ∧
      (∀ i < s.srcLen.toNat, v.src.read (6 + i) = s.src.read i) ∧ v.pRsvd = 0x00 ∧ v.pFlags = 0b111 ∧
      ∃ p : List Byte, p.length = s.srcLen.toNat ∧ s.src.holds 0 p ∧ v.crc = crc8 s.cfg p

/-! ### The pixel encoder -/

/-- R164, R163, R165, R166, R167: ENC1 completes; pixel (x, y) of the padded raster is the bit R166 names, 1 exactly
when its gray value is below 128; OUT_LEN is 48 * H', OUT_HEIGHT is H'; every DST byte past them and every other piece
of state keeps its value. -/
def Obligations.Enc1PacksPixels : Prop :=
  ∀ (s : State) (raster : List Byte),
    raster.length = 384 * s.height.toNat → raster.length ≤ s.cfg.srcSize →
    48 * max s.height.toNat 86 ≤ s.cfg.dstSize → s.src.holds 0 raster →
    ∃ t : State, exec .enc1 s = .next t ∧
      t = { s with
        dst := t.dst
        outLen := BitVec.ofNat 32 (48 * max s.height.toNat 86)
        outHeight := BitVec.ofNat 16 (max s.height.toNat 86)
        err := .ok
        done := true
        seq := .idle } ∧
      (∀ x < 384, ∀ y < max s.height.toNat 86,
        (384 * y + x) / 8 = 48 * y + x / 8 ∧ (384 * y + x) % 8 = x % 8 ∧
        ∃ b, t.dst.read ((384 * y + x) / 8) = some b ∧
          b.getLsbD ((384 * y + x) % 8) =
            decide ((if y < s.height.toNat then raster.getD (384 * y + x) 255 else 255).toNat < 128)) ∧
      ∀ a, 48 * max s.height.toNat 86 ≤ a → t.dst.read a = s.dst.read a

/-- R168, R163, R169, R170, R171: ENC4 completes; pixel (x, y) of the padded raster is the nibble R170 names and holds
(255 - gray) >> 4; OUT_LEN is 192 * H', OUT_HEIGHT is H'; every DST byte past them and every other piece of state keeps
its value. -/
def Obligations.Enc4PacksPixels : Prop :=
  ∀ (s : State) (raster : List Byte),
    raster.length = 384 * s.height.toNat → raster.length ≤ s.cfg.srcSize →
    192 * max s.height.toNat 86 ≤ s.cfg.dstSize → s.src.holds 0 raster →
    ∃ t : State, exec .enc4 s = .next t ∧
      t = { s with
        dst := t.dst
        outLen := BitVec.ofNat 32 (192 * max s.height.toNat 86)
        outHeight := BitVec.ofNat 16 (max s.height.toNat 86)
        err := .ok
        done := true
        seq := .idle } ∧
      (∀ x < 384, ∀ y < max s.height.toNat 86,
        (384 * y + x) / 2 = 192 * y + x / 2 ∧ (384 * y + x) % 2 = x % 2 ∧
        ∃ b, t.dst.read ((384 * y + x) / 2) = some b ∧
          (b.extractLsb' (if (384 * y + x) % 2 = 0 then 4 else 0) 4).toNat =
            (255 - (if y < s.height.toNat then raster.getD (384 * y + x) 255 else 255).toNat) / 16) ∧
      ∀ a, 192 * max s.height.toNat 86 ≤ a → t.dst.read a = s.dst.read a

/-- R162 with R167 and R171: a successful encode reports H' = max(H, 86) and writes H' lines: 48 or 192 times H' bytes,
all of them defined. -/
def Obligations.EncodePadsToMinimumHeight : Prop :=
  ∀ s t : State,
    (exec .enc1 s = .next t → t.err = .ok → t.outHeight.toNat = max s.height.toNat 86 ∧
      t.outLen.toNat = 48 * t.outHeight.toNat ∧ ∀ a < t.outLen.toNat, (t.dst.read a).isSome) ∧
    (exec .enc4 s = .next t → t.err = .ok → t.outHeight.toNat = max s.height.toNat 86 ∧
      t.outLen.toNat = 192 * t.outHeight.toNat ∧ ∀ a < t.outLen.toNat, (t.dst.read a).isSome)

/-- R176: gray 255 is not dark and has level 0, and the padding lines are 0x00 bytes in both modes. -/
def Obligations.PaddingLinesAreZero : Prop :=
  (dark 255 = false ∧ level4 255 = 0) ∧
  ∀ s t : State,
    (exec .enc1 s = .next t → t.err = .ok → ∀ a, 48 * s.height.toNat ≤ a → a < 48 * t.outHeight.toNat →
      t.dst.read a = some 0x00) ∧
    (exec .enc4 s = .next t → t.err = .ok → ∀ a, 192 * s.height.toNat ≤ a → a < 192 * t.outHeight.toNat →
      t.dst.read a = some 0x00)

/-- R175: in both modes (48 and 192 bytes a line) an all-white raster packs to 0x00 bytes at every height, an all-black
one of at least 86 rows to 0xFF bytes; a shorter all-black one has its own lines 0xFF and its padding lines 0x00. -/
def Obligations.WhiteAndBlackRasters : Prop :=
  ∀ (s t : State) (bpl : Nat),
    (bpl = 48 ∧ exec .enc1 s = .next t) ∨ (bpl = 192 ∧ exec .enc4 s = .next t) → t.err = .ok →
    ((∀ p < 384 * s.height.toNat, s.src.read p = some 255) → ∀ a < t.outLen.toNat, t.dst.read a = some 0x00) ∧
    ((∀ p < 384 * s.height.toNat, s.src.read p = some 0) →
      (86 ≤ s.height.toNat → ∀ a < t.outLen.toNat, t.dst.read a = some 0xFF) ∧
      (s.height.toNat < 86 → (∀ a < bpl * s.height.toNat, t.dst.read a = some 0xFF) ∧
        ∀ a, bpl * s.height.toNat ≤ a → a < t.outLen.toNat → t.dst.read a = some 0x00))

/-- R165, R169: which gray values are dark, and the level of each. -/
def Obligations.GrayValues : Prop :=
  ∀ g : Byte, (dark g = true ↔ g.toNat < 128) ∧ (level4 g).toNat = (255 - g.toNat) / 16 ∧
    (level4 g).toNat = 15 - g.toNat / 16

/-! ### Completion, frames, isolation -/

/-- R200, R209, R216: a pending word, legal or not, is completed by the block's one step, or that step is the model
fault UNINIT; it is never refused and never stuck (the turns are the model's own, log 7). -/
def Obligations.PendingWordCompletes : Prop :=
  ∀ (s : State) (w : Word), s.turns = [] ∨ s.turns.head? = some .block → s.seq = .pending w →
    (∃ t, step s = .next t ∧ t.seq = .idle ∧ t.done = true) ∨ step s = .fault .uninit

/-- R209: a completion sets DONE, returns SEQ to IDLE and leaves OVR, the operand registers and SRC; with a code other
than E_OK it changes nothing else either; an illegal word's code is E_ILLEGAL (the turns are the model's own, log 7). -/
def Obligations.CompletionIsPrecise : Prop :=
  ∀ (s t : State) (w : Word), s.turns = [] ∨ s.turns.head? = some .block → s.seq = .pending w → step s = .next t →
    (t.seq = .idle ∧ t.done = true ∧ t.ovr = s.ovr ∧ t.srcLen = s.srcLen ∧ t.cmdId = s.cmdId ∧
      t.height = s.height ∧ t.src = s.src) ∧
    (t.err ≠ .ok → t = { s with turns := s.turns.tail, err := t.err, done := true, seq := .idle }) ∧
    (∀ why, decode w = .illegal why → t.err = .illegal)

/-- R44, R45, R105, R124: the frame of the two commands that store nothing. CRC8 writes CRC, PARSE writes CRC and the
P_ registers, each also the working register and STATUS; every other register, both memories and the host's fields keep
their values. -/
def Obligations.RegisterCommandFrame : Prop :=
  ∀ s t : State,
    (exec .crc8 s = .next t →
      t = { s with crc := t.crc, crcWork := t.crcWork, err := t.err, done := t.done, seq := t.seq } ∧
      ∀ a, t.dst.read a = s.dst.read a ∧ t.src.read a = s.src.read a) ∧
    (exec .parse s = .next t →
      t = { s with
        crc := t.crc
        crcWork := t.crcWork
        pId := t.pId
        pLen := t.pLen
        pOff := t.pOff
        pRsvd := t.pRsvd
        pFlags := t.pFlags
        err := t.err
        done := t.done
        seq := t.seq } ∧
      ∀ a, t.dst.read a = s.dst.read a ∧ t.src.read a = s.src.read a)

/-- R44, R45, R63: the frame of the three commands that store. BUILD writes DST[0..8+L), OUT_LEN and CRC; ENC1 and ENC4
write DST[0..BPL * H'), OUT_LEN and OUT_HEIGHT; a failed one stores nothing; every DST byte from the stored run's end up
reads as before, and so do SRC and every other register. -/
def Obligations.StoringCommandFrame : Prop :=
  ∀ s t : State,
    (exec .build s = .next t →
      t = { s with
        dst := t.dst
        outLen := t.outLen
        crc := t.crc
        crcWork := t.crcWork
        err := t.err
        done := t.done
        seq := t.seq } ∧
      (t.err ≠ .ok → ∀ a, t.dst.read a = s.dst.read a) ∧
      ∀ a, 8 + s.srcLen.toNat ≤ a → t.dst.read a = s.dst.read a) ∧
    (exec .enc1 s = .next t →
      t = { s with
        dst := t.dst
        outLen := t.outLen
        outHeight := t.outHeight
        err := t.err
        done := t.done
        seq := t.seq } ∧
      (t.err ≠ .ok → ∀ a, t.dst.read a = s.dst.read a) ∧
      ∀ a, 48 * max s.height.toNat 86 ≤ a → t.dst.read a = s.dst.read a) ∧
    (exec .enc4 s = .next t →
      t = { s with
        dst := t.dst
        outLen := t.outLen
        outHeight := t.outHeight
        err := t.err
        done := t.done
        seq := t.seq } ∧
      (t.err ≠ .ok → ∀ a, t.dst.read a = s.dst.read a) ∧
      ∀ a, 192 * max s.height.toNat 86 ≤ a → t.dst.read a = s.dst.read a)

/-- R38, R103, R133: a command's outcome depends on the parameters, its operand registers and SRC alone. Two states
that agree on those, and on nothing else (not on earlier results, DST, the working register c, STATUS or the host), give
the same error code and the same results, or both fault. -/
def Obligations.ResultsDependOnOperandsOnly : Prop :=
  ∀ (i : Instr) (s₁ s₂ : State),
    s₁.cfg = s₂.cfg → s₁.srcLen = s₂.srcLen → s₁.cmdId = s₂.cmdId → s₁.height = s₂.height →
    (∀ a, s₁.src.read a = s₂.src.read a) →
    (exec i s₁ = .fault .uninit → exec i s₂ = .fault .uninit) ∧
    ∀ t₁, exec i s₁ = .next t₁ → ∃ t₂, exec i s₂ = .next t₂ ∧ t₂.err = t₁.err ∧
      (t₁.err = .ok →
        (i = .crc8 ∨ i = .build ∨ i = .parse → t₂.crc = t₁.crc) ∧
        (i = .build ∨ i = .enc1 ∨ i = .enc4 →
          t₂.outLen = t₁.outLen ∧ ∀ a < t₁.outLen.toNat, t₂.dst.read a = t₁.dst.read a) ∧
        (i = .enc1 ∨ i = .enc4 → t₂.outHeight = t₁.outHeight) ∧
        (i = .parse → t₂.pId = t₁.pId ∧ t₂.pLen = t₁.pLen ∧ t₂.pOff = t₁.pOff ∧ t₂.pRsvd = t₁.pRsvd ∧
          t₂.pFlags = t₁.pFlags))

/-! ### The host -/

/-- R23: a CMD write latches the whole word, legal or not, sets BUSY and clears DONE when idle; when busy it is dropped
and sets OVR (the program and turns are the model's own, logs 6 and 7). -/
def Obligations.CmdWriteIssues : Prop :=
  ∀ (s : State) (w : Word), s.mover = .host → s.program.head? = some (.access (.regWrite 1 4 w)) →
    (s.seq = .idle → step s = .next { s with
      turns := s.turns.tail
      program := s.program.tail
      seq := .pending w
      done := false }) ∧
    (s.seq ≠ .idle → step s = .next { s with turns := s.turns.tail, program := s.program.tail, ovr := true })

/-- R24, R25, R26, R36: an operand register written while idle stores its used bits, and nothing else changes
(the program and turns are the model's own, logs 6 and 7). -/
def Obligations.OperandWritesStoreUsedBits : Prop :=
  ∀ (s : State) (v : Word), s.mover = .host → s.seq = .idle →
    (s.program.head? = some (.access (.regWrite 2 4 v)) → step s = .next { s with
      turns := s.turns.tail, program := s.program.tail, srcLen := v }) ∧
    (s.program.head? = some (.access (.regWrite 3 4 v)) → step s = .next { s with
      turns := s.turns.tail, program := s.program.tail, cmdId := v.extractLsb' 0 8 }) ∧
    (s.program.head? = some (.access (.regWrite 4 4 v)) → step s = .next { s with
      turns := s.turns.tail, program := s.program.tail, height := v.extractLsb' 0 16 })

/-- R235: while busy, a write to CMD, SRC_LEN, CMD_ID, HEIGHT or an SRC byte is dropped and sets OVR; a STATUS write is
accepted; writes to read-only registers, unallocated numbers and DST are ignored and set no OVR; and as long as a
command stays pending, its word and its operands stay as they are. What is said of the program and the turns is the
model's own choice, logs 6 and 7. -/
def Obligations.BusyWritesAreDropped : Prop :=
  (∀ s : State, s.mover = .host → s.seq ≠ .idle →
    (∀ n v, 1 ≤ n → n ≤ 4 → s.program.head? = some (.access (.regWrite n 4 v)) →
      step s = .next { s with turns := s.turns.tail, program := s.program.tail, ovr := true }) ∧
    (∀ a b, a < s.cfg.srcSize → s.program.head? = some (.access (.memWrite .src a 1 b)) →
      step s = .next { s with turns := s.turns.tail, program := s.program.tail, ovr := true }) ∧
    (∀ v, s.program.head? = some (.access (.regWrite 0 4 v)) →
      step s = .next { s with
        turns := s.turns.tail, program := s.program.tail, ovr := s.ovr && !v.getLsbD 8 }) ∧
    (∀ n v, 5 ≤ n → n < 16 → s.program.head? = some (.access (.regWrite n 4 v)) →
      step s = .next { s with turns := s.turns.tail, program := s.program.tail }) ∧
    (∀ a b, a < s.cfg.dstSize → s.program.head? = some (.access (.memWrite .dst a 1 b)) →
      step s = .next { s with turns := s.turns.tail, program := s.program.tail })) ∧
  ∀ s t : State, s.seq ≠ .idle → step s = .next t → t.seq ≠ .idle →
    t.seq = s.seq ∧ t.srcLen = s.srcLen ∧ t.cmdId = s.cmdId ∧ t.height = s.height ∧ t.src = s.src

/-- R22, R211: a STATUS write clears OVR if its bit 8 is set and otherwise leaves it; nothing else changes, busy or
not (the program and turns are the model's own, logs 6 and 7). -/
def Obligations.StatusWriteClearsOvrOnly : Prop :=
  ∀ (s : State) (v : Word), s.mover = .host → s.program.head? = some (.access (.regWrite 0 4 v)) →
    step s = .next { s with
      turns := s.turns.tail
      program := s.program.tail
      ovr := if v.getLsbD 8 then false else s.ovr }

/-- R22, R201: the fields of the STATUS word and the seven error codes. -/
def Obligations.StatusWordFields : Prop :=
  (∀ s : State, (s.statusWord.getLsbD 0 = true ↔ s.seq ≠ .idle) ∧ s.statusWord.getLsbD 1 = s.done ∧
    s.statusWord.extractLsb' 2 2 = 0 ∧ s.statusWord.extractLsb' 4 4 = s.err.code ∧
    s.statusWord.getLsbD 8 = s.ovr ∧ s.statusWord.extractLsb' 9 23 = 0) ∧
  ErrCode.code .ok = 0 ∧ ErrCode.code .illegal = 1 ∧ ErrCode.code .short = 2 ∧ ErrCode.code .header = 3 ∧
  ErrCode.code .trunc = 4 ∧ ErrCode.code .len = 5 ∧ ErrCode.code .range = 6

/-- R21, R59: a write to a read-only register (5 to 12) is ignored, busy or not, and sets no OVR
(the program and turns are the model's own, logs 6 and 7). -/
def Obligations.ReadOnlyRegistersIgnoreWrites : Prop :=
  ∀ (s : State) (n : Nat) (v : Word), s.mover = .host → 5 ≤ n → n ≤ 12 →
    s.program.head? = some (.access (.regWrite n 4 v)) →
    step s = .next { s with turns := s.turns.tail, program := s.program.tail }

/-- R35: the unallocated numbers 13, 14 and 15 read zero and ignore writes, and set no OVR. What is said of the program,
the turns and the transcript is the model's own choice, logs 6 and 7. -/
def Obligations.UnallocatedRegisters : Prop :=
  ∀ (s : State) (n : Nat), s.mover = .host → n = 13 ∨ n = 14 ∨ n = 15 →
    (s.program.head? = some (.access (.regRead n 4)) → step s = .next { s with
      turns := s.turns.tail, program := s.program.tail, transcript := .reg n 0x00000000 :: s.transcript }) ∧
    ∀ v, s.program.head? = some (.access (.regWrite n 4 v)) →
      step s = .next { s with turns := s.turns.tail, program := s.program.tail }

/-- R51, R59, R36, R23: a register read returns the register's used bits with every reserved bit zero (CMD zero) and
changes nothing; the result registers while idle, the others always (the program, turns and
transcript are the model's own, logs 6 and 7). -/
def Obligations.RegisterReads : Prop :=
  ∀ (s : State) (n : Nat) (v : Word), s.mover = .host → s.program.head? = some (.access (.regRead n 4)) →
    (n, v) ∈ [(0, s.statusWord), (1, 0), (2, s.srcLen), (3, s.cmdId.setWidth 32), (4, s.height.setWidth 32)] ∨
    (s.seq = .idle ∧ (n, v) ∈ [(5, s.crc.setWidth 32), (6, s.outLen), (7, s.outHeight.setWidth 32),
      (8, s.pId.setWidth 32), (9, s.pLen.setWidth 32), (10, s.pOff.setWidth 32), (11, s.pRsvd.setWidth 32),
      (12, s.pFlags.setWidth 32)]) →
    step s = .next { s with
      turns := s.turns.tail, program := s.program.tail, transcript := .reg n v :: s.transcript }

/-- R234: in the busy window of a legal state a STATUS read returns BUSY = 1, DONE = 0, the previous ERR and the current
OVR, and SRC_LEN, CMD_ID, HEIGHT and SRC bytes return their values. What is said of the program, the turns and the
transcript is the model's own choice, logs 6 and 7. -/
def Obligations.BusyWindowReads : Prop :=
  ∀ s : State, s.Inv → s.mover = .host → s.seq ≠ .idle →
    (s.program.head? = some (.access (.regRead 0 4)) → ∃ v : Word, step s = .next { s with
        turns := s.turns.tail, program := s.program.tail, transcript := .reg 0 v :: s.transcript } ∧
      v.getLsbD 0 = true ∧ v.getLsbD 1 = false ∧ v.extractLsb' 4 4 = s.err.code ∧ v.getLsbD 8 = s.ovr) ∧
    (s.program.head? = some (.access (.regRead 2 4)) → step s = .next { s with
        turns := s.turns.tail, program := s.program.tail, transcript := .reg 2 s.srcLen :: s.transcript }) ∧
    (s.program.head? = some (.access (.regRead 3 4)) → step s = .next { s with
        turns := s.turns.tail, program := s.program.tail
        transcript := .reg 3 (s.cmdId.setWidth 32) :: s.transcript }) ∧
    (s.program.head? = some (.access (.regRead 4 4)) → step s = .next { s with
        turns := s.turns.tail, program := s.program.tail
        transcript := .reg 4 (s.height.setWidth 32) :: s.transcript }) ∧
    ∀ (a : Nat) (b : Byte), a < s.cfg.srcSize → s.src.read a = some b →
      s.program.head? = some (.access (.memRead .src a 1)) → step s = .next { s with
        turns := s.turns.tail, program := s.program.tail, transcript := .mem .src a b :: s.transcript }

/-- R236: in the busy window a read of a result register or a DST byte (defined or not, log 13) returns the free value of
the model's draw counter (log 8) and counts the draw; it changes nothing else (the program, turns and
transcript are the model's own, logs 6 and 7). -/
def Obligations.BusyResultReadsAreDrawn : Prop :=
  ∀ s : State, s.mover = .host → s.seq ≠ .idle →
    (∀ n, 5 ≤ n → n ≤ 12 → s.program.head? = some (.access (.regRead n 4)) → step s = .next { s with
      turns := s.turns.tail
      program := s.program.tail
      transcript := .reg n (Config.freeWord s.draws) :: s.transcript
      draws := s.draws + 1 }) ∧
    ∀ a, a < s.cfg.dstSize → s.program.head? = some (.access (.memRead .dst a 1)) → step s = .next { s with
      turns := s.turns.tail
      program := s.program.tail
      transcript := .mem .dst a (Config.freeByte s.draws) :: s.transcript
      draws := s.draws + 1 }

/-- R53: a host access is refused for its width exactly when that is not 4 bytes to a register or 1 byte to a memory.
R53 and R54 name no order; that the width is checked first, so that an access which is also out of range is refused, is
the model's own choice, log 9. -/
def Obligations.OtherWidthsAreRefused : Prop :=
  ∀ (s : State) (width : Nat), s.mover = .host →
    (∀ n, s.program.head? = some (.access (.regRead n width)) →
      (step s = .refused .accessWidth ↔ width ≠ 4)) ∧
    (∀ n v, s.program.head? = some (.access (.regWrite n width v)) →
      (step s = .refused .accessWidth ↔ width ≠ 4)) ∧
    (∀ m a, s.program.head? = some (.access (.memRead m a width)) →
      (step s = .refused .accessWidth ↔ width ≠ 1)) ∧
    (∀ m a b, s.program.head? = some (.access (.memWrite m a width b)) →
      (step s = .refused .accessWidth ↔ width ≠ 1))

/-- R54 (the named fault is the model's, log 9): the host is stuck at a register number from 16 up, at an SRC address
from SRC_SIZE up and at a DST address from DST_SIZE up, busy or not. -/
def Obligations.OutOfRangeIsStuck : Prop :=
  ∀ s : State, s.mover = .host →
    (∀ n, 16 ≤ n → s.program.head? = some (.access (.regRead n 4)) → step s = .fault .hostOutOfRange) ∧
    (∀ n v, 16 ≤ n → s.program.head? = some (.access (.regWrite n 4 v)) → step s = .fault .hostOutOfRange) ∧
    (∀ a, s.cfg.srcSize ≤ a → s.program.head? = some (.access (.memRead .src a 1)) →
      step s = .fault .hostOutOfRange) ∧
    (∀ a b, s.cfg.srcSize ≤ a → s.program.head? = some (.access (.memWrite .src a 1 b)) →
      step s = .fault .hostOutOfRange) ∧
    (∀ a, s.cfg.dstSize ≤ a → s.program.head? = some (.access (.memRead .dst a 1)) →
      step s = .fault .hostOutOfRange) ∧
    (∀ a b, s.cfg.dstSize ≤ a → s.program.head? = some (.access (.memWrite .dst a 1 b)) →
      step s = .fault .hostOutOfRange)

/-- R52: host memory accesses in range. Reads return the byte (SRC always, DST while idle) or are UNINIT; an SRC write
while idle changes that byte and no other, while busy it is dropped with OVR; a DST write does nothing (log 13 for DST
while busy; the program, turns and transcript are the model's own, logs 6 and 7). -/
def Obligations.HostMemoryAccess : Prop :=
  ∀ s : State, s.mover = .host →
    (∀ m a b, a < s.cfg.size m → m = .src ∨ s.seq = .idle →
      (match m with | .src => s.src | .dst => s.dst).read a = some b →
      s.program.head? = some (.access (.memRead m a 1)) → step s = .next { s with
        turns := s.turns.tail, program := s.program.tail, transcript := .mem m a b :: s.transcript }) ∧
    (∀ m a, a < s.cfg.size m → m = .src ∨ s.seq = .idle →
      (match m with | .src => s.src | .dst => s.dst).read a = none →
      s.program.head? = some (.access (.memRead m a 1)) → step s = .fault .uninit) ∧
    (∀ a b, a < s.cfg.srcSize → s.seq = .idle → s.program.head? = some (.access (.memWrite .src a 1 b)) →
      ∃ t : State, step s = .next t ∧
        t = { s with turns := s.turns.tail, program := s.program.tail, src := t.src } ∧
        t.src.read a = some b ∧ ∀ x, x ≠ a → t.src.read x = s.src.read x) ∧
    (∀ a b, a < s.cfg.srcSize → s.seq ≠ .idle → s.program.head? = some (.access (.memWrite .src a 1 b)) →
      step s = .next { s with turns := s.turns.tail, program := s.program.tail, ovr := true }) ∧
    (∀ a b, a < s.cfg.dstSize → s.program.head? = some (.access (.memWrite .dst a 1 b)) →
      step s = .next { s with turns := s.turns.tail, program := s.program.tail })

/-- R51, R59: what a host access may change: each register only by a write to its own number, SRC only by an SRC write,
SEQ and DONE only by a CMD write, and only while idle; the result registers, ERR, DST, the working register and the
parameters never. -/
def Obligations.HostAccessFrame : Prop :=
  ∀ (s t : State) (a : HostAccess), s.mover = .host → s.program.head? = some (.access a) → step s = .next t →
    t = { s with
      turns := s.turns.tail
      program := s.program.tail
      seq := t.seq
      done := t.done
      ovr := t.ovr
      srcLen := t.srcLen
      cmdId := t.cmdId
      height := t.height
      src := t.src
      transcript := t.transcript
      draws := t.draws } ∧
    ((t.seq ≠ s.seq ∨ t.done ≠ s.done) → s.seq = .idle ∧ ∃ w, a = .regWrite 1 4 w) ∧
    (t.srcLen ≠ s.srcLen → s.seq = .idle ∧ ∃ v, a = .regWrite 2 4 v) ∧
    (t.cmdId ≠ s.cmdId → s.seq = .idle ∧ ∃ v, a = .regWrite 3 4 v) ∧
    (t.height ≠ s.height → s.seq = .idle ∧ ∃ v, a = .regWrite 4 4 v) ∧
    (t.src ≠ s.src → s.seq = .idle ∧ ∃ x b, a = .memWrite .src x 1 b) ∧
    (t.transcript ≠ s.transcript ∨ t.draws ≠ s.draws →
      (∃ n, a = .regRead n 4) ∨ ∃ m x, a = .memRead m x 1)

/-- R75: `wait` reads STATUS each turn; it ends when bit 0 of the value read is 0 and else stays the next operation
(the program, turns and transcript are the model's own, logs 6 and 7). -/
def Obligations.WaitPollsStatus : Prop :=
  ∀ s : State, s.mover = .host → s.program.head? = some .wait →
    step s = .next { s with
      turns := s.turns.tail
      program := if s.seq = .idle then s.program.tail else s.program
      transcript := .reg 0 s.statusWord :: s.transcript }

/-- R230, R47: a reset, at any point, gives every piece of the block's state its reset value, a pending command among
it; the parameters are unaffected, and the model keeps the host's own fields (log 11); the working
register's reset value is the model's (log 4). -/
def Obligations.ResetAtAnyPoint : Prop :=
  ∀ s : State, s.mover = .host → s.program.head? = some .reset →
    step s = .next { State.resetWith s.cfg with
      turns := s.turns.tail
      program := s.program.tail
      transcript := s.transcript
      draws := s.draws }

/-- R47: the reset values the spec gives, under any parameters; State.reset is one instance. -/
def Obligations.ResetValues : Prop :=
  (∀ cfg : Config,
    let s := State.resetWith cfg
    s.cfg = cfg ∧ s.seq = .idle ∧ s.statusWord = 0x00000000 ∧ s.done = false ∧ s.err = .ok ∧ s.ovr = false ∧
    s.srcLen = 0 ∧ s.cmdId = 0 ∧ s.height = 0 ∧ s.crc = 0x00 ∧ s.outLen = 0 ∧ s.outHeight = 0 ∧ s.pId = 0 ∧
    s.pLen = 0 ∧ s.pOff = 0 ∧ s.pRsvd = 0 ∧ s.pFlags = 0 ∧ ∀ a, s.src.read a = none ∧ s.dst.read a = none) ∧
  ∃ cfg, State.reset = State.resetWith cfg

/-- The model's reading of "has no step" for an agent with nothing to do (R37; log 7): an idle block and a host with no
operation left use up their turn and change nothing. -/
def Obligations.NothingToDoChangesNothing : Prop :=
  ∀ s : State,
    (s.mover = .block → s.seq = .idle → step s = .next { s with turns := s.turns.tail }) ∧
    (s.mover = .host → s.program = [] → step s = .next { s with turns := s.turns.tail })

/-! ### Whole-machine rules -/

/-- The invariant holds at reset, whatever the parameters. -/
def Obligations.InvHoldsAtReset : Prop :=
  State.reset.Inv ∧ ∀ cfg : Config, (State.resetWith cfg).Inv

/-- Every step keeps the invariant (R22, R28, R29, R32, R34, R40, R41, R63), from every state that has it. -/
def Obligations.StepKeepsInv : Prop :=
  ∀ s t : State, s.Inv → step s = .next t → t.Inv

/-- R46, R39: no step changes the parameters; the table "is never written". -/
def Obligations.ParametersNeverChange : Prop :=
  ∀ s t : State, step s = .next t → t.cfg = s.cfg

/-- R22, R211: ERR changes only at a completion, which sets DONE, or by reset. -/
def Obligations.ErrWrittenOnlyAtCompletion : Prop :=
  ∀ s t : State, step s = .next t → t.err ≠ s.err →
    (s.mover = .block ∧ s.seq ≠ .idle ∧ t.seq = .idle ∧ t.done = true) ∨
    (s.mover = .host ∧ s.program.head? = some .reset)

/-- R22, R212, R235: OVR is set only by a dropped write in the busy window, and cleared only by a STATUS write with bit 8
set or by reset. -/
def Obligations.OvrSetAndCleared : Prop :=
  ∀ s t : State, step s = .next t →
    (s.ovr = false → t.ovr = true → s.mover = .host ∧ s.seq ≠ .idle ∧
      ((∃ n v, s.program.head? = some (.access (.regWrite n 4 v)) ∧ 1 ≤ n ∧ n ≤ 4) ∨
        ∃ a b, s.program.head? = some (.access (.memWrite .src a 1 b)))) ∧
    (s.ovr = true → t.ovr = false → s.mover = .host ∧
      (s.program.head? = some .reset ∨
        ∃ v, s.program.head? = some (.access (.regWrite 0 4 v)) ∧ v.getLsbD 8 = true))

/-- R57, R63: the block never writes SRC; a step changes SRC only by a host write while idle, or by reset. -/
def Obligations.SrcWrittenOnlyByHost : Prop :=
  ∀ s t : State, step s = .next t → t.src ≠ s.src → s.mover = .host ∧
    (s.program.head? = some .reset ∨
      (s.seq = .idle ∧ ∃ a b, s.program.head? = some (.access (.memWrite .src a 1 b))))

/-- R41, R177: a step changes DST only by a successful completion of BUILD, ENC1 or ENC4, or by reset. -/
def Obligations.DstWrittenOnlyByStores : Prop :=
  ∀ s t : State, step s = .next t → t.dst ≠ s.dst →
    (s.mover = .host ∧ s.program.head? = some .reset) ∨
    (s.mover = .block ∧ t.err = .ok ∧ ∃ w, s.seq = .pending w ∧
      (decode w = .command .build ∨ decode w = .command .enc1 ∨ decode w = .command .enc4))

/-- R233 (weak fairness, in the form of log 7): a pending command whose host has nothing left to do is completed, or
faults UNINIT, one step after the host's listed turns are used up. -/
def Obligations.PendingCommandIsEventuallyCompleted : Prop :=
  ∀ (n : Nat) (s : State) (w : Word), s.seq = .pending w → s.program = [] → s.turns = List.replicate n .host →
    (∃ t : State, Sys2Proof.core.run (n + 1) s = .next t ∧ t.seq = .idle ∧ t.done = true) ∨
      Sys2Proof.core.run (n + 1) s = .fault Fault.uninit
end

