-- ==== Sys2Proof/Laws/Memory.lean ====
section
/-! SUPPORT. The laws of the byte memories: reading after writing, runs of bytes, the canonical form. -/

namespace Sys2Proof.Machine

theorem Memory.read_append (m₁ m₂ : Memory) (a : Nat) :
    Memory.read (m₁ ++ m₂) a = (Memory.read m₁ a).or (Memory.read m₂ a) := by
  induction m₁ with
  | nil => rfl
  | cons c rest ih =>
    obtain ⟨k, b⟩ := c
    by_cases h : k = a
    · simp [Memory.read, h]
    · simp [Memory.read, h, ih]

theorem Memory.read_filter (m : Memory) (keep : Nat → Bool) (a : Nat) :
    Memory.read (m.filter fun c => keep c.1) a = if keep a then Memory.read m a else none := by
  induction m with
  | nil => simp [Memory.read]
  | cons c rest ih =>
    obtain ⟨k, b⟩ := c
    by_cases hk : keep k = true
    · rw [List.filter_cons_of_pos (by simpa using hk)]
      by_cases h : k = a
      · subst h; simp [Memory.read, hk]
      · simp [Memory.read, h, ih]
    · rw [List.filter_cons_of_neg (by simpa using hk), ih]
      by_cases h : k = a
      · subst h; simp [hk]
      · simp [Memory.read, h]

theorem Memory.read_cellsAt (bs : List Byte) (a x : Nat) :
    Memory.read (Memory.cellsAt a bs) x = if a ≤ x then bs[x - a]? else none := by
  induction bs generalizing a with
  | nil => simp [Memory.cellsAt, Memory.read]
  | cons b bs ih =>
    by_cases h : a = x
    · subst h; simp [Memory.cellsAt, Memory.read]
    · rw [Memory.cellsAt, Memory.read, if_neg h, ih]
      by_cases hx : a + 1 ≤ x
      · rw [if_pos hx, if_pos (by omega), show x - a = (x - (a + 1)) + 1 by omega]
        simp
      · rw [if_neg hx, if_neg (by omega)]

/-- Reading after a write: the written bytes inside the run, what was there outside it. -/
theorem Memory.read_writeRun (m : Memory) (a : Nat) (bs : List Byte) (x : Nat) :
    (m.writeRun a bs).read x = if a ≤ x ∧ x < a + bs.length then bs[x - a]? else m.read x := by
  have low := Memory.read_filter m (fun k => decide (k < a)) x
  have high := Memory.read_filter m (fun k => decide (a + bs.length ≤ k)) x
  rw [Memory.writeRun, Memory.read_append, Memory.read_append, low, high, Memory.read_cellsAt]
  by_cases h1 : x < a
  · have : ¬ a ≤ x := by omega
    have : ¬ a + bs.length ≤ x := by omega
    simp [*]
  · have h1' : a ≤ x := by omega
    by_cases h2 : x < a + bs.length
    · have : x - a < bs.length := by omega
      simp [*]
    · have h3 : a + bs.length ≤ x := by omega
      have : bs[x - a]? = none := List.getElem?_eq_none (by omega)
      simp [*]

theorem Memory.read_writeRun_zero (m : Memory) (bs : List Byte) (x : Nat) :
    (m.writeRun 0 bs).read x = if x < bs.length then bs[x]? else m.read x := by
  simpa using m.read_writeRun 0 bs x

theorem Memory.read_write (m : Memory) (a : Nat) (b : Byte) (x : Nat) :
    (m.write a b).read x = if x = a then some b else m.read x := by
  rw [Memory.write, Memory.read_writeRun]
  by_cases h : x = a
  · subst h; simp
  · have : ¬ (a ≤ x ∧ x < a + [b].length) := by simp; omega
    rw [if_neg this, if_neg h]

theorem Memory.cellsAt_le (bs : List Byte) (a : Nat) :
    ∀ c ∈ Memory.cellsAt a bs, a ≤ c.1 ∧ c.1 < a + bs.length := by
  induction bs generalizing a with
  | nil => simp [Memory.cellsAt]
  | cons b bs ih =>
    intro c hc
    rcases List.mem_cons.mp hc with rfl | hc
    · simp
    · have := ih (a + 1) c hc
      simp only [List.length_cons]; omega

theorem Memory.cellsAt_wf (bs : List Byte) (a : Nat) : (Memory.cellsAt a bs).wf := by
  induction bs generalizing a with
  | nil => exact List.Pairwise.nil
  | cons b bs ih =>
    refine List.Pairwise.cons (fun c hc => ?_) (ih (a + 1))
    have := Memory.cellsAt_le bs (a + 1) c hc
    simp only; omega

/-- A write keeps the canonical form. -/
theorem Memory.writeRun_wf {m : Memory} (h : m.wf) (a : Nat) (bs : List Byte) : (m.writeRun a bs).wf := by
  have hl : ∀ c ∈ m.filter (fun c => decide (c.1 < a)), c.1 < a := fun c hc => by
    simpa using (List.mem_filter.mp hc).2
  have hh : ∀ c ∈ m.filter (fun c => decide (a + bs.length ≤ c.1)), a + bs.length ≤ c.1 := fun c hc => by
    simpa using (List.mem_filter.mp hc).2
  have hm := Memory.cellsAt_le bs a
  refine List.pairwise_append.mpr ⟨List.pairwise_append.mpr ⟨h.filter _, Memory.cellsAt_wf bs a, ?_⟩, h.filter _, ?_⟩
  · intro x hx y hy
    have := hl x hx; have := hm y hy
    omega
  · intro x hx y hy
    have := hh y hy
    rcases List.mem_append.mp hx with hx | hx
    · have := hl x hx; omega
    · have := hm x hx; omega

theorem Memory.write_wf {m : Memory} (h : m.wf) (a : Nat) (b : Byte) : (m.write a b).wf := Memory.writeRun_wf h a [b]

/-- A write inside a size keeps every address inside it. -/
theorem Memory.writeRun_fits {m : Memory} {size a : Nat} {bs : List Byte} (h : m.fits size)
    (hb : a + bs.length ≤ size) : (m.writeRun a bs).fits size := by
  intro c hc
  rcases List.mem_append.mp hc with hc | hc
  · rcases List.mem_append.mp hc with hc | hc
    · exact h c (List.mem_of_mem_filter hc)
    · have := Memory.cellsAt_le bs a c hc; omega
  · exact h c (List.mem_of_mem_filter hc)

theorem Memory.write_fits {m : Memory} {size a : Nat} {b : Byte} (h : m.fits size) (ha : a < size) :
    (m.write a b).fits size := Memory.writeRun_fits h (by simpa using ha)

/-- What a run of reads answers: exactly the bytes the memory holds there. -/
theorem Memory.readRun_eq_some_iff {m : Memory} {n a : Nat} {bs : List Byte} :
    m.readRun n a = some bs ↔ bs.length = n ∧ m.holds a bs := by
  induction n generalizing a bs with
  | zero =>
    simp only [Memory.readRun, Option.some.injEq]
    constructor
    · rintro rfl; exact ⟨rfl, fun i hi => absurd hi (by simp)⟩
    · rintro ⟨h, -⟩; exact (List.length_eq_zero_iff.mp h).symm
  | succ n ih =>
    rw [Memory.readRun]
    cases hb : m.read a with
    | none =>
      simp only [reduceCtorEq, false_iff, not_and]
      intro hl hh
      have h0 := hh 0 (by omega)
      rw [Nat.add_zero, hb, List.getElem?_eq_getElem (by omega)] at h0
      exact absurd h0 (by simp)
    | some b =>
      simp only [Option.map_eq_some_iff]
      constructor
      · rintro ⟨tl, htl, rfl⟩
        obtain ⟨hl, hh⟩ := ih.mp htl
        refine ⟨by simp [hl], fun i hi => ?_⟩
        cases i with
        | zero => simp [hb]
        | succ i =>
          have := hh i (by simpa using hi)
          rw [show a + (i + 1) = a + 1 + i by omega]
          simpa using this
      · rintro ⟨hl, hh⟩
        cases bs with
        | nil => simp at hl
        | cons c tl =>
          have h0 := hh 0 (by simp)
          simp only [Nat.add_zero, hb, List.getElem?_cons_zero, Option.some.injEq] at h0
          refine ⟨tl, ih.mpr ⟨by simpa using hl, fun i hi => ?_⟩, by rw [h0]⟩
          have := hh (i + 1) (by simpa using hi)
          rw [show a + (i + 1) = a + 1 + i by omega] at this
          simpa using this

theorem Memory.readRun_of_holds {m : Memory} {n a : Nat} {bs : List Byte} (hl : bs.length = n)
    (h : m.holds a bs) : m.readRun n a = some bs := Memory.readRun_eq_some_iff.mpr ⟨hl, h⟩

/-- A run of reads fails exactly when one of its bytes is `undef`. -/
theorem Memory.readRun_eq_none_iff {m : Memory} {n a : Nat} :
    m.readRun n a = none ↔ ∃ i < n, m.read (a + i) = none := by
  induction n generalizing a with
  | zero => simp [Memory.readRun]
  | succ n ih =>
    rw [Memory.readRun]
    cases hb : m.read a with
    | none => exact ⟨fun _ => ⟨0, by omega, by simpa using hb⟩, fun _ => rfl⟩
    | some b =>
      simp only [Option.map_eq_none_iff, ih]
      constructor
      · rintro ⟨i, hi, h⟩
        exact ⟨i + 1, by omega, by rwa [show a + (i + 1) = a + 1 + i by omega]⟩
      · rintro ⟨i, hi, h⟩
        cases i with
        | zero => rw [Nat.add_zero, hb] at h; cases h
        | succ i => exact ⟨i, by omega, by rwa [show a + 1 + i = a + (i + 1) by omega]⟩

theorem Memory.readRun_of_defined {m : Memory} {n a : Nat} (h : ∀ i < n, (m.read (a + i)).isSome) :
    ∃ bs, m.readRun n a = some bs := by
  cases hr : m.readRun n a with
  | some bs => exact ⟨bs, rfl⟩
  | none =>
    obtain ⟨i, hi, hn⟩ := Memory.readRun_eq_none_iff.mp hr
    have := h i hi
    rw [hn] at this; simp at this

theorem Memory.readRun_length {m : Memory} {n a : Nat} {bs : List Byte} (h : m.readRun n a = some bs) :
    bs.length = n := (Memory.readRun_eq_some_iff.mp h).1

/-- Two memories that agree on a range give the same run. -/
theorem Memory.readRun_congr {m₁ m₂ : Memory} {n a : Nat} (h : ∀ i < n, m₁.read (a + i) = m₂.read (a + i)) :
    m₁.readRun n a = m₂.readRun n a := by
  induction n generalizing a with
  | zero => rfl
  | succ n ih =>
    have h0 := h 0 (by omega)
    rw [Nat.add_zero] at h0
    rw [Memory.readRun, Memory.readRun, h0, ih fun i hi => by
      have := h (i + 1) (by omega)
      rwa [show a + (i + 1) = a + 1 + i by omega] at this]

theorem Memory.cellsAt_holds (a : Nat) (bs : List Byte) : (Memory.cellsAt a bs).holds a bs := by
  intro i hi
  rw [Memory.read_cellsAt, if_pos (by omega), Nat.add_sub_cancel_left]

theorem Memory.holds_append {m : Memory} {a : Nat} {xs ys : List Byte} :
    m.holds a (xs ++ ys) ↔ m.holds a xs ∧ m.holds (a + xs.length) ys := by
  constructor
  · intro h
    refine ⟨fun i hi => ?_, fun i hi => ?_⟩
    · have := h i (by simp; omega)
      rwa [List.getElem?_append_left hi] at this
    · have := h (xs.length + i) (by simp; omega)
      rwa [List.getElem?_append_right (by omega), Nat.add_sub_cancel_left, ← Nat.add_assoc] at this
  · rintro ⟨h₁, h₂⟩ i hi
    by_cases h : i < xs.length
    · rw [List.getElem?_append_left h]; exact h₁ i h
    · have := h₂ (i - xs.length) (by simp at hi; omega)
      rw [List.getElem?_append_right (by omega), ← this]
      congr 1; omega

end Sys2Proof.Machine
end

