-- ==== Sys2Proof/Laws/State.lean ====
section
/-! SUPPORT. One lemma a field for each named update of State (Machine/Ops.lean), true by rfl, so that no proof unfolds a
record update. Prove an equality of two states' fields by simp with them, not by rfl, which compares whole records first. -/

namespace Sys2Proof.Machine

variable (s : State)

/-! ### State.issue -/

@[simp] theorem State.issue_cfg (w : Word) : (s.issue w).cfg = s.cfg := rfl
@[simp] theorem State.issue_seq (w : Word) : (s.issue w).seq = .pending w := rfl
@[simp] theorem State.issue_done (w : Word) : (s.issue w).done = false := rfl
@[simp] theorem State.issue_err (w : Word) : (s.issue w).err = s.err := rfl
@[simp] theorem State.issue_ovr (w : Word) : (s.issue w).ovr = s.ovr := rfl
@[simp] theorem State.issue_srcLen (w : Word) : (s.issue w).srcLen = s.srcLen := rfl
@[simp] theorem State.issue_cmdId (w : Word) : (s.issue w).cmdId = s.cmdId := rfl
@[simp] theorem State.issue_height (w : Word) : (s.issue w).height = s.height := rfl
@[simp] theorem State.issue_crc (w : Word) : (s.issue w).crc = s.crc := rfl
@[simp] theorem State.issue_outLen (w : Word) : (s.issue w).outLen = s.outLen := rfl
@[simp] theorem State.issue_outHeight (w : Word) : (s.issue w).outHeight = s.outHeight := rfl
@[simp] theorem State.issue_pId (w : Word) : (s.issue w).pId = s.pId := rfl
@[simp] theorem State.issue_pLen (w : Word) : (s.issue w).pLen = s.pLen := rfl
@[simp] theorem State.issue_pOff (w : Word) : (s.issue w).pOff = s.pOff := rfl
@[simp] theorem State.issue_pRsvd (w : Word) : (s.issue w).pRsvd = s.pRsvd := rfl
@[simp] theorem State.issue_pFlags (w : Word) : (s.issue w).pFlags = s.pFlags := rfl
@[simp] theorem State.issue_crcWork (w : Word) : (s.issue w).crcWork = s.crcWork := rfl
@[simp] theorem State.issue_src (w : Word) : (s.issue w).src = s.src := rfl
@[simp] theorem State.issue_dst (w : Word) : (s.issue w).dst = s.dst := rfl
@[simp] theorem State.issue_program (w : Word) : (s.issue w).program = s.program := rfl
@[simp] theorem State.issue_turns (w : Word) : (s.issue w).turns = s.turns := rfl
@[simp] theorem State.issue_transcript (w : Word) : (s.issue w).transcript = s.transcript := rfl
@[simp] theorem State.issue_draws (w : Word) : (s.issue w).draws = s.draws := rfl

/-! ### State.complete -/

@[simp] theorem State.complete_cfg (e : ErrCode) : (s.complete e).cfg = s.cfg := rfl
@[simp] theorem State.complete_seq (e : ErrCode) : (s.complete e).seq = .idle := rfl
@[simp] theorem State.complete_done (e : ErrCode) : (s.complete e).done = true := rfl
@[simp] theorem State.complete_err (e : ErrCode) : (s.complete e).err = e := rfl
@[simp] theorem State.complete_ovr (e : ErrCode) : (s.complete e).ovr = s.ovr := rfl
@[simp] theorem State.complete_srcLen (e : ErrCode) : (s.complete e).srcLen = s.srcLen := rfl
@[simp] theorem State.complete_cmdId (e : ErrCode) : (s.complete e).cmdId = s.cmdId := rfl
@[simp] theorem State.complete_height (e : ErrCode) : (s.complete e).height = s.height := rfl
@[simp] theorem State.complete_crc (e : ErrCode) : (s.complete e).crc = s.crc := rfl
@[simp] theorem State.complete_outLen (e : ErrCode) : (s.complete e).outLen = s.outLen := rfl
@[simp] theorem State.complete_outHeight (e : ErrCode) : (s.complete e).outHeight = s.outHeight := rfl
@[simp] theorem State.complete_pId (e : ErrCode) : (s.complete e).pId = s.pId := rfl
@[simp] theorem State.complete_pLen (e : ErrCode) : (s.complete e).pLen = s.pLen := rfl
@[simp] theorem State.complete_pOff (e : ErrCode) : (s.complete e).pOff = s.pOff := rfl
@[simp] theorem State.complete_pRsvd (e : ErrCode) : (s.complete e).pRsvd = s.pRsvd := rfl
@[simp] theorem State.complete_pFlags (e : ErrCode) : (s.complete e).pFlags = s.pFlags := rfl
@[simp] theorem State.complete_crcWork (e : ErrCode) : (s.complete e).crcWork = s.crcWork := rfl
@[simp] theorem State.complete_src (e : ErrCode) : (s.complete e).src = s.src := rfl
@[simp] theorem State.complete_dst (e : ErrCode) : (s.complete e).dst = s.dst := rfl
@[simp] theorem State.complete_program (e : ErrCode) : (s.complete e).program = s.program := rfl
@[simp] theorem State.complete_turns (e : ErrCode) : (s.complete e).turns = s.turns := rfl
@[simp] theorem State.complete_transcript (e : ErrCode) : (s.complete e).transcript = s.transcript := rfl
@[simp] theorem State.complete_draws (e : ErrCode) : (s.complete e).draws = s.draws := rfl

/-! ### State.storeCrc -/

@[simp] theorem State.storeCrc_cfg (c : Byte) : (s.storeCrc c).cfg = s.cfg := rfl
@[simp] theorem State.storeCrc_seq (c : Byte) : (s.storeCrc c).seq = s.seq := rfl
@[simp] theorem State.storeCrc_done (c : Byte) : (s.storeCrc c).done = s.done := rfl
@[simp] theorem State.storeCrc_err (c : Byte) : (s.storeCrc c).err = s.err := rfl
@[simp] theorem State.storeCrc_ovr (c : Byte) : (s.storeCrc c).ovr = s.ovr := rfl
@[simp] theorem State.storeCrc_srcLen (c : Byte) : (s.storeCrc c).srcLen = s.srcLen := rfl
@[simp] theorem State.storeCrc_cmdId (c : Byte) : (s.storeCrc c).cmdId = s.cmdId := rfl
@[simp] theorem State.storeCrc_height (c : Byte) : (s.storeCrc c).height = s.height := rfl
@[simp] theorem State.storeCrc_crc (c : Byte) : (s.storeCrc c).crc = c := rfl
@[simp] theorem State.storeCrc_outLen (c : Byte) : (s.storeCrc c).outLen = s.outLen := rfl
@[simp] theorem State.storeCrc_outHeight (c : Byte) : (s.storeCrc c).outHeight = s.outHeight := rfl
@[simp] theorem State.storeCrc_pId (c : Byte) : (s.storeCrc c).pId = s.pId := rfl
@[simp] theorem State.storeCrc_pLen (c : Byte) : (s.storeCrc c).pLen = s.pLen := rfl
@[simp] theorem State.storeCrc_pOff (c : Byte) : (s.storeCrc c).pOff = s.pOff := rfl
@[simp] theorem State.storeCrc_pRsvd (c : Byte) : (s.storeCrc c).pRsvd = s.pRsvd := rfl
@[simp] theorem State.storeCrc_pFlags (c : Byte) : (s.storeCrc c).pFlags = s.pFlags := rfl
@[simp] theorem State.storeCrc_crcWork (c : Byte) : (s.storeCrc c).crcWork = c := rfl
@[simp] theorem State.storeCrc_src (c : Byte) : (s.storeCrc c).src = s.src := rfl
@[simp] theorem State.storeCrc_dst (c : Byte) : (s.storeCrc c).dst = s.dst := rfl
@[simp] theorem State.storeCrc_program (c : Byte) : (s.storeCrc c).program = s.program := rfl
@[simp] theorem State.storeCrc_turns (c : Byte) : (s.storeCrc c).turns = s.turns := rfl
@[simp] theorem State.storeCrc_transcript (c : Byte) : (s.storeCrc c).transcript = s.transcript := rfl
@[simp] theorem State.storeCrc_draws (c : Byte) : (s.storeCrc c).draws = s.draws := rfl
@[simp] theorem State.storeCrc_busy (c : Byte) : (s.storeCrc c).busy = s.busy := rfl

/-! ### State.storeOutput -/

@[simp] theorem State.storeOutput_cfg (out : List Byte) : (s.storeOutput out).cfg = s.cfg := rfl
@[simp] theorem State.storeOutput_seq (out : List Byte) : (s.storeOutput out).seq = s.seq := rfl
@[simp] theorem State.storeOutput_done (out : List Byte) : (s.storeOutput out).done = s.done := rfl
@[simp] theorem State.storeOutput_err (out : List Byte) : (s.storeOutput out).err = s.err := rfl
@[simp] theorem State.storeOutput_ovr (out : List Byte) : (s.storeOutput out).ovr = s.ovr := rfl
@[simp] theorem State.storeOutput_srcLen (out : List Byte) : (s.storeOutput out).srcLen = s.srcLen := rfl
@[simp] theorem State.storeOutput_cmdId (out : List Byte) : (s.storeOutput out).cmdId = s.cmdId := rfl
@[simp] theorem State.storeOutput_height (out : List Byte) : (s.storeOutput out).height = s.height := rfl
@[simp] theorem State.storeOutput_crc (out : List Byte) : (s.storeOutput out).crc = s.crc := rfl
@[simp] theorem State.storeOutput_outLen (out : List Byte) : (s.storeOutput out).outLen = BitVec.ofNat 32 out.length := rfl
@[simp] theorem State.storeOutput_outHeight (out : List Byte) : (s.storeOutput out).outHeight = s.outHeight := rfl
@[simp] theorem State.storeOutput_pId (out : List Byte) : (s.storeOutput out).pId = s.pId := rfl
@[simp] theorem State.storeOutput_pLen (out : List Byte) : (s.storeOutput out).pLen = s.pLen := rfl
@[simp] theorem State.storeOutput_pOff (out : List Byte) : (s.storeOutput out).pOff = s.pOff := rfl
@[simp] theorem State.storeOutput_pRsvd (out : List Byte) : (s.storeOutput out).pRsvd = s.pRsvd := rfl
@[simp] theorem State.storeOutput_pFlags (out : List Byte) : (s.storeOutput out).pFlags = s.pFlags := rfl
@[simp] theorem State.storeOutput_crcWork (out : List Byte) : (s.storeOutput out).crcWork = s.crcWork := rfl
@[simp] theorem State.storeOutput_src (out : List Byte) : (s.storeOutput out).src = s.src := rfl
@[simp] theorem State.storeOutput_dst (out : List Byte) : (s.storeOutput out).dst = s.dst.writeRun 0 out := rfl
@[simp] theorem State.storeOutput_program (out : List Byte) : (s.storeOutput out).program = s.program := rfl
@[simp] theorem State.storeOutput_turns (out : List Byte) : (s.storeOutput out).turns = s.turns := rfl
@[simp] theorem State.storeOutput_transcript (out : List Byte) : (s.storeOutput out).transcript = s.transcript := rfl
@[simp] theorem State.storeOutput_draws (out : List Byte) : (s.storeOutput out).draws = s.draws := rfl
@[simp] theorem State.storeOutput_busy (out : List Byte) : (s.storeOutput out).busy = s.busy := rfl

/-! ### State.storeOutHeight -/

@[simp] theorem State.storeOutHeight_cfg (n : Nat) : (s.storeOutHeight n).cfg = s.cfg := rfl
@[simp] theorem State.storeOutHeight_seq (n : Nat) : (s.storeOutHeight n).seq = s.seq := rfl
@[simp] theorem State.storeOutHeight_done (n : Nat) : (s.storeOutHeight n).done = s.done := rfl
@[simp] theorem State.storeOutHeight_err (n : Nat) : (s.storeOutHeight n).err = s.err := rfl
@[simp] theorem State.storeOutHeight_ovr (n : Nat) : (s.storeOutHeight n).ovr = s.ovr := rfl
@[simp] theorem State.storeOutHeight_srcLen (n : Nat) : (s.storeOutHeight n).srcLen = s.srcLen := rfl
@[simp] theorem State.storeOutHeight_cmdId (n : Nat) : (s.storeOutHeight n).cmdId = s.cmdId := rfl
@[simp] theorem State.storeOutHeight_height (n : Nat) : (s.storeOutHeight n).height = s.height := rfl
@[simp] theorem State.storeOutHeight_crc (n : Nat) : (s.storeOutHeight n).crc = s.crc := rfl
@[simp] theorem State.storeOutHeight_outLen (n : Nat) : (s.storeOutHeight n).outLen = s.outLen := rfl
@[simp] theorem State.storeOutHeight_outHeight (n : Nat) : (s.storeOutHeight n).outHeight = BitVec.ofNat 16 n := rfl
@[simp] theorem State.storeOutHeight_pId (n : Nat) : (s.storeOutHeight n).pId = s.pId := rfl
@[simp] theorem State.storeOutHeight_pLen (n : Nat) : (s.storeOutHeight n).pLen = s.pLen := rfl
@[simp] theorem State.storeOutHeight_pOff (n : Nat) : (s.storeOutHeight n).pOff = s.pOff := rfl
@[simp] theorem State.storeOutHeight_pRsvd (n : Nat) : (s.storeOutHeight n).pRsvd = s.pRsvd := rfl
@[simp] theorem State.storeOutHeight_pFlags (n : Nat) : (s.storeOutHeight n).pFlags = s.pFlags := rfl
@[simp] theorem State.storeOutHeight_crcWork (n : Nat) : (s.storeOutHeight n).crcWork = s.crcWork := rfl
@[simp] theorem State.storeOutHeight_src (n : Nat) : (s.storeOutHeight n).src = s.src := rfl
@[simp] theorem State.storeOutHeight_dst (n : Nat) : (s.storeOutHeight n).dst = s.dst := rfl
@[simp] theorem State.storeOutHeight_program (n : Nat) : (s.storeOutHeight n).program = s.program := rfl
@[simp] theorem State.storeOutHeight_turns (n : Nat) : (s.storeOutHeight n).turns = s.turns := rfl
@[simp] theorem State.storeOutHeight_transcript (n : Nat) : (s.storeOutHeight n).transcript = s.transcript := rfl
@[simp] theorem State.storeOutHeight_draws (n : Nat) : (s.storeOutHeight n).draws = s.draws := rfl
@[simp] theorem State.storeOutHeight_busy (n : Nat) : (s.storeOutHeight n).busy = s.busy := rfl

/-! ### State.storeParsed -/

@[simp] theorem State.storeParsed_cfg (i : Byte) (l : BitVec 16) (r : Byte) (f : BitVec 3) : (s.storeParsed i l r f).cfg = s.cfg := rfl
@[simp] theorem State.storeParsed_seq (i : Byte) (l : BitVec 16) (r : Byte) (f : BitVec 3) : (s.storeParsed i l r f).seq = s.seq := rfl
@[simp] theorem State.storeParsed_done (i : Byte) (l : BitVec 16) (r : Byte) (f : BitVec 3) : (s.storeParsed i l r f).done = s.done := rfl
@[simp] theorem State.storeParsed_err (i : Byte) (l : BitVec 16) (r : Byte) (f : BitVec 3) : (s.storeParsed i l r f).err = s.err := rfl
@[simp] theorem State.storeParsed_ovr (i : Byte) (l : BitVec 16) (r : Byte) (f : BitVec 3) : (s.storeParsed i l r f).ovr = s.ovr := rfl
@[simp] theorem State.storeParsed_srcLen (i : Byte) (l : BitVec 16) (r : Byte) (f : BitVec 3) : (s.storeParsed i l r f).srcLen = s.srcLen := rfl
@[simp] theorem State.storeParsed_cmdId (i : Byte) (l : BitVec 16) (r : Byte) (f : BitVec 3) : (s.storeParsed i l r f).cmdId = s.cmdId := rfl
@[simp] theorem State.storeParsed_height (i : Byte) (l : BitVec 16) (r : Byte) (f : BitVec 3) : (s.storeParsed i l r f).height = s.height := rfl
@[simp] theorem State.storeParsed_crc (i : Byte) (l : BitVec 16) (r : Byte) (f : BitVec 3) : (s.storeParsed i l r f).crc = s.crc := rfl
@[simp] theorem State.storeParsed_outLen (i : Byte) (l : BitVec 16) (r : Byte) (f : BitVec 3) : (s.storeParsed i l r f).outLen = s.outLen := rfl
@[simp] theorem State.storeParsed_outHeight (i : Byte) (l : BitVec 16) (r : Byte) (f : BitVec 3) : (s.storeParsed i l r f).outHeight = s.outHeight := rfl
@[simp] theorem State.storeParsed_pId (i : Byte) (l : BitVec 16) (r : Byte) (f : BitVec 3) : (s.storeParsed i l r f).pId = i := rfl
@[simp] theorem State.storeParsed_pLen (i : Byte) (l : BitVec 16) (r : Byte) (f : BitVec 3) : (s.storeParsed i l r f).pLen = l := rfl
@[simp] theorem State.storeParsed_pOff (i : Byte) (l : BitVec 16) (r : Byte) (f : BitVec 3) : (s.storeParsed i l r f).pOff = 6 := rfl
@[simp] theorem State.storeParsed_pRsvd (i : Byte) (l : BitVec 16) (r : Byte) (f : BitVec 3) : (s.storeParsed i l r f).pRsvd = r := rfl
@[simp] theorem State.storeParsed_pFlags (i : Byte) (l : BitVec 16) (r : Byte) (f : BitVec 3) : (s.storeParsed i l r f).pFlags = f := rfl
@[simp] theorem State.storeParsed_crcWork (i : Byte) (l : BitVec 16) (r : Byte) (f : BitVec 3) : (s.storeParsed i l r f).crcWork = s.crcWork := rfl
@[simp] theorem State.storeParsed_src (i : Byte) (l : BitVec 16) (r : Byte) (f : BitVec 3) : (s.storeParsed i l r f).src = s.src := rfl
@[simp] theorem State.storeParsed_dst (i : Byte) (l : BitVec 16) (r : Byte) (f : BitVec 3) : (s.storeParsed i l r f).dst = s.dst := rfl
@[simp] theorem State.storeParsed_program (i : Byte) (l : BitVec 16) (r : Byte) (f : BitVec 3) : (s.storeParsed i l r f).program = s.program := rfl
@[simp] theorem State.storeParsed_turns (i : Byte) (l : BitVec 16) (r : Byte) (f : BitVec 3) : (s.storeParsed i l r f).turns = s.turns := rfl
@[simp] theorem State.storeParsed_transcript (i : Byte) (l : BitVec 16) (r : Byte) (f : BitVec 3) : (s.storeParsed i l r f).transcript = s.transcript := rfl
@[simp] theorem State.storeParsed_draws (i : Byte) (l : BitVec 16) (r : Byte) (f : BitVec 3) : (s.storeParsed i l r f).draws = s.draws := rfl
@[simp] theorem State.storeParsed_busy (i : Byte) (l : BitVec 16) (r : Byte) (f : BitVec 3) : (s.storeParsed i l r f).busy = s.busy := rfl

/-! ### State.setOvr -/

@[simp] theorem State.setOvr_cfg (b : Bool) : (s.setOvr b).cfg = s.cfg := rfl
@[simp] theorem State.setOvr_seq (b : Bool) : (s.setOvr b).seq = s.seq := rfl
@[simp] theorem State.setOvr_done (b : Bool) : (s.setOvr b).done = s.done := rfl
@[simp] theorem State.setOvr_err (b : Bool) : (s.setOvr b).err = s.err := rfl
@[simp] theorem State.setOvr_ovr (b : Bool) : (s.setOvr b).ovr = b := rfl
@[simp] theorem State.setOvr_srcLen (b : Bool) : (s.setOvr b).srcLen = s.srcLen := rfl
@[simp] theorem State.setOvr_cmdId (b : Bool) : (s.setOvr b).cmdId = s.cmdId := rfl
@[simp] theorem State.setOvr_height (b : Bool) : (s.setOvr b).height = s.height := rfl
@[simp] theorem State.setOvr_crc (b : Bool) : (s.setOvr b).crc = s.crc := rfl
@[simp] theorem State.setOvr_outLen (b : Bool) : (s.setOvr b).outLen = s.outLen := rfl
@[simp] theorem State.setOvr_outHeight (b : Bool) : (s.setOvr b).outHeight = s.outHeight := rfl
@[simp] theorem State.setOvr_pId (b : Bool) : (s.setOvr b).pId = s.pId := rfl
@[simp] theorem State.setOvr_pLen (b : Bool) : (s.setOvr b).pLen = s.pLen := rfl
@[simp] theorem State.setOvr_pOff (b : Bool) : (s.setOvr b).pOff = s.pOff := rfl
@[simp] theorem State.setOvr_pRsvd (b : Bool) : (s.setOvr b).pRsvd = s.pRsvd := rfl
@[simp] theorem State.setOvr_pFlags (b : Bool) : (s.setOvr b).pFlags = s.pFlags := rfl
@[simp] theorem State.setOvr_crcWork (b : Bool) : (s.setOvr b).crcWork = s.crcWork := rfl
@[simp] theorem State.setOvr_src (b : Bool) : (s.setOvr b).src = s.src := rfl
@[simp] theorem State.setOvr_dst (b : Bool) : (s.setOvr b).dst = s.dst := rfl
@[simp] theorem State.setOvr_program (b : Bool) : (s.setOvr b).program = s.program := rfl
@[simp] theorem State.setOvr_turns (b : Bool) : (s.setOvr b).turns = s.turns := rfl
@[simp] theorem State.setOvr_transcript (b : Bool) : (s.setOvr b).transcript = s.transcript := rfl
@[simp] theorem State.setOvr_draws (b : Bool) : (s.setOvr b).draws = s.draws := rfl
@[simp] theorem State.setOvr_busy (b : Bool) : (s.setOvr b).busy = s.busy := rfl

/-! ### State.setSrcLen -/

@[simp] theorem State.setSrcLen_cfg (v : Word) : (s.setSrcLen v).cfg = s.cfg := rfl
@[simp] theorem State.setSrcLen_seq (v : Word) : (s.setSrcLen v).seq = s.seq := rfl
@[simp] theorem State.setSrcLen_done (v : Word) : (s.setSrcLen v).done = s.done := rfl
@[simp] theorem State.setSrcLen_err (v : Word) : (s.setSrcLen v).err = s.err := rfl
@[simp] theorem State.setSrcLen_ovr (v : Word) : (s.setSrcLen v).ovr = s.ovr := rfl
@[simp] theorem State.setSrcLen_srcLen (v : Word) : (s.setSrcLen v).srcLen = v := rfl
@[simp] theorem State.setSrcLen_cmdId (v : Word) : (s.setSrcLen v).cmdId = s.cmdId := rfl
@[simp] theorem State.setSrcLen_height (v : Word) : (s.setSrcLen v).height = s.height := rfl
@[simp] theorem State.setSrcLen_crc (v : Word) : (s.setSrcLen v).crc = s.crc := rfl
@[simp] theorem State.setSrcLen_outLen (v : Word) : (s.setSrcLen v).outLen = s.outLen := rfl
@[simp] theorem State.setSrcLen_outHeight (v : Word) : (s.setSrcLen v).outHeight = s.outHeight := rfl
@[simp] theorem State.setSrcLen_pId (v : Word) : (s.setSrcLen v).pId = s.pId := rfl
@[simp] theorem State.setSrcLen_pLen (v : Word) : (s.setSrcLen v).pLen = s.pLen := rfl
@[simp] theorem State.setSrcLen_pOff (v : Word) : (s.setSrcLen v).pOff = s.pOff := rfl
@[simp] theorem State.setSrcLen_pRsvd (v : Word) : (s.setSrcLen v).pRsvd = s.pRsvd := rfl
@[simp] theorem State.setSrcLen_pFlags (v : Word) : (s.setSrcLen v).pFlags = s.pFlags := rfl
@[simp] theorem State.setSrcLen_crcWork (v : Word) : (s.setSrcLen v).crcWork = s.crcWork := rfl
@[simp] theorem State.setSrcLen_src (v : Word) : (s.setSrcLen v).src = s.src := rfl
@[simp] theorem State.setSrcLen_dst (v : Word) : (s.setSrcLen v).dst = s.dst := rfl
@[simp] theorem State.setSrcLen_program (v : Word) : (s.setSrcLen v).program = s.program := rfl
@[simp] theorem State.setSrcLen_turns (v : Word) : (s.setSrcLen v).turns = s.turns := rfl
@[simp] theorem State.setSrcLen_transcript (v : Word) : (s.setSrcLen v).transcript = s.transcript := rfl
@[simp] theorem State.setSrcLen_draws (v : Word) : (s.setSrcLen v).draws = s.draws := rfl
@[simp] theorem State.setSrcLen_busy (v : Word) : (s.setSrcLen v).busy = s.busy := rfl

/-! ### State.setCmdId -/

@[simp] theorem State.setCmdId_cfg (v : Word) : (s.setCmdId v).cfg = s.cfg := rfl
@[simp] theorem State.setCmdId_seq (v : Word) : (s.setCmdId v).seq = s.seq := rfl
@[simp] theorem State.setCmdId_done (v : Word) : (s.setCmdId v).done = s.done := rfl
@[simp] theorem State.setCmdId_err (v : Word) : (s.setCmdId v).err = s.err := rfl
@[simp] theorem State.setCmdId_ovr (v : Word) : (s.setCmdId v).ovr = s.ovr := rfl
@[simp] theorem State.setCmdId_srcLen (v : Word) : (s.setCmdId v).srcLen = s.srcLen := rfl
@[simp] theorem State.setCmdId_cmdId (v : Word) : (s.setCmdId v).cmdId = v.setWidth 8 := rfl
@[simp] theorem State.setCmdId_height (v : Word) : (s.setCmdId v).height = s.height := rfl
@[simp] theorem State.setCmdId_crc (v : Word) : (s.setCmdId v).crc = s.crc := rfl
@[simp] theorem State.setCmdId_outLen (v : Word) : (s.setCmdId v).outLen = s.outLen := rfl
@[simp] theorem State.setCmdId_outHeight (v : Word) : (s.setCmdId v).outHeight = s.outHeight := rfl
@[simp] theorem State.setCmdId_pId (v : Word) : (s.setCmdId v).pId = s.pId := rfl
@[simp] theorem State.setCmdId_pLen (v : Word) : (s.setCmdId v).pLen = s.pLen := rfl
@[simp] theorem State.setCmdId_pOff (v : Word) : (s.setCmdId v).pOff = s.pOff := rfl
@[simp] theorem State.setCmdId_pRsvd (v : Word) : (s.setCmdId v).pRsvd = s.pRsvd := rfl
@[simp] theorem State.setCmdId_pFlags (v : Word) : (s.setCmdId v).pFlags = s.pFlags := rfl
@[simp] theorem State.setCmdId_crcWork (v : Word) : (s.setCmdId v).crcWork = s.crcWork := rfl
@[simp] theorem State.setCmdId_src (v : Word) : (s.setCmdId v).src = s.src := rfl
@[simp] theorem State.setCmdId_dst (v : Word) : (s.setCmdId v).dst = s.dst := rfl
@[simp] theorem State.setCmdId_program (v : Word) : (s.setCmdId v).program = s.program := rfl
@[simp] theorem State.setCmdId_turns (v : Word) : (s.setCmdId v).turns = s.turns := rfl
@[simp] theorem State.setCmdId_transcript (v : Word) : (s.setCmdId v).transcript = s.transcript := rfl
@[simp] theorem State.setCmdId_draws (v : Word) : (s.setCmdId v).draws = s.draws := rfl
@[simp] theorem State.setCmdId_busy (v : Word) : (s.setCmdId v).busy = s.busy := rfl

/-! ### State.setHeight -/

@[simp] theorem State.setHeight_cfg (v : Word) : (s.setHeight v).cfg = s.cfg := rfl
@[simp] theorem State.setHeight_seq (v : Word) : (s.setHeight v).seq = s.seq := rfl
@[simp] theorem State.setHeight_done (v : Word) : (s.setHeight v).done = s.done := rfl
@[simp] theorem State.setHeight_err (v : Word) : (s.setHeight v).err = s.err := rfl
@[simp] theorem State.setHeight_ovr (v : Word) : (s.setHeight v).ovr = s.ovr := rfl
@[simp] theorem State.setHeight_srcLen (v : Word) : (s.setHeight v).srcLen = s.srcLen := rfl
@[simp] theorem State.setHeight_cmdId (v : Word) : (s.setHeight v).cmdId = s.cmdId := rfl
@[simp] theorem State.setHeight_height (v : Word) : (s.setHeight v).height = v.setWidth 16 := rfl
@[simp] theorem State.setHeight_crc (v : Word) : (s.setHeight v).crc = s.crc := rfl
@[simp] theorem State.setHeight_outLen (v : Word) : (s.setHeight v).outLen = s.outLen := rfl
@[simp] theorem State.setHeight_outHeight (v : Word) : (s.setHeight v).outHeight = s.outHeight := rfl
@[simp] theorem State.setHeight_pId (v : Word) : (s.setHeight v).pId = s.pId := rfl
@[simp] theorem State.setHeight_pLen (v : Word) : (s.setHeight v).pLen = s.pLen := rfl
@[simp] theorem State.setHeight_pOff (v : Word) : (s.setHeight v).pOff = s.pOff := rfl
@[simp] theorem State.setHeight_pRsvd (v : Word) : (s.setHeight v).pRsvd = s.pRsvd := rfl
@[simp] theorem State.setHeight_pFlags (v : Word) : (s.setHeight v).pFlags = s.pFlags := rfl
@[simp] theorem State.setHeight_crcWork (v : Word) : (s.setHeight v).crcWork = s.crcWork := rfl
@[simp] theorem State.setHeight_src (v : Word) : (s.setHeight v).src = s.src := rfl
@[simp] theorem State.setHeight_dst (v : Word) : (s.setHeight v).dst = s.dst := rfl
@[simp] theorem State.setHeight_program (v : Word) : (s.setHeight v).program = s.program := rfl
@[simp] theorem State.setHeight_turns (v : Word) : (s.setHeight v).turns = s.turns := rfl
@[simp] theorem State.setHeight_transcript (v : Word) : (s.setHeight v).transcript = s.transcript := rfl
@[simp] theorem State.setHeight_draws (v : Word) : (s.setHeight v).draws = s.draws := rfl
@[simp] theorem State.setHeight_busy (v : Word) : (s.setHeight v).busy = s.busy := rfl

/-! ### State.setSrcByte -/

@[simp] theorem State.setSrcByte_cfg (a : Nat) (b : Byte) : (s.setSrcByte a b).cfg = s.cfg := rfl
@[simp] theorem State.setSrcByte_seq (a : Nat) (b : Byte) : (s.setSrcByte a b).seq = s.seq := rfl
@[simp] theorem State.setSrcByte_done (a : Nat) (b : Byte) : (s.setSrcByte a b).done = s.done := rfl
@[simp] theorem State.setSrcByte_err (a : Nat) (b : Byte) : (s.setSrcByte a b).err = s.err := rfl
@[simp] theorem State.setSrcByte_ovr (a : Nat) (b : Byte) : (s.setSrcByte a b).ovr = s.ovr := rfl
@[simp] theorem State.setSrcByte_srcLen (a : Nat) (b : Byte) : (s.setSrcByte a b).srcLen = s.srcLen := rfl
@[simp] theorem State.setSrcByte_cmdId (a : Nat) (b : Byte) : (s.setSrcByte a b).cmdId = s.cmdId := rfl
@[simp] theorem State.setSrcByte_height (a : Nat) (b : Byte) : (s.setSrcByte a b).height = s.height := rfl
@[simp] theorem State.setSrcByte_crc (a : Nat) (b : Byte) : (s.setSrcByte a b).crc = s.crc := rfl
@[simp] theorem State.setSrcByte_outLen (a : Nat) (b : Byte) : (s.setSrcByte a b).outLen = s.outLen := rfl
@[simp] theorem State.setSrcByte_outHeight (a : Nat) (b : Byte) : (s.setSrcByte a b).outHeight = s.outHeight := rfl
@[simp] theorem State.setSrcByte_pId (a : Nat) (b : Byte) : (s.setSrcByte a b).pId = s.pId := rfl
@[simp] theorem State.setSrcByte_pLen (a : Nat) (b : Byte) : (s.setSrcByte a b).pLen = s.pLen := rfl
@[simp] theorem State.setSrcByte_pOff (a : Nat) (b : Byte) : (s.setSrcByte a b).pOff = s.pOff := rfl
@[simp] theorem State.setSrcByte_pRsvd (a : Nat) (b : Byte) : (s.setSrcByte a b).pRsvd = s.pRsvd := rfl
@[simp] theorem State.setSrcByte_pFlags (a : Nat) (b : Byte) : (s.setSrcByte a b).pFlags = s.pFlags := rfl
@[simp] theorem State.setSrcByte_crcWork (a : Nat) (b : Byte) : (s.setSrcByte a b).crcWork = s.crcWork := rfl
@[simp] theorem State.setSrcByte_src (a : Nat) (b : Byte) : (s.setSrcByte a b).src = s.src.write a b := rfl
@[simp] theorem State.setSrcByte_dst (a : Nat) (b : Byte) : (s.setSrcByte a b).dst = s.dst := rfl
@[simp] theorem State.setSrcByte_program (a : Nat) (b : Byte) : (s.setSrcByte a b).program = s.program := rfl
@[simp] theorem State.setSrcByte_turns (a : Nat) (b : Byte) : (s.setSrcByte a b).turns = s.turns := rfl
@[simp] theorem State.setSrcByte_transcript (a : Nat) (b : Byte) : (s.setSrcByte a b).transcript = s.transcript := rfl
@[simp] theorem State.setSrcByte_draws (a : Nat) (b : Byte) : (s.setSrcByte a b).draws = s.draws := rfl
@[simp] theorem State.setSrcByte_busy (a : Nat) (b : Byte) : (s.setSrcByte a b).busy = s.busy := rfl

/-! ### State.observe -/

@[simp] theorem State.observe_cfg (o : Observed) : (s.observe o).cfg = s.cfg := rfl
@[simp] theorem State.observe_seq (o : Observed) : (s.observe o).seq = s.seq := rfl
@[simp] theorem State.observe_done (o : Observed) : (s.observe o).done = s.done := rfl
@[simp] theorem State.observe_err (o : Observed) : (s.observe o).err = s.err := rfl
@[simp] theorem State.observe_ovr (o : Observed) : (s.observe o).ovr = s.ovr := rfl
@[simp] theorem State.observe_srcLen (o : Observed) : (s.observe o).srcLen = s.srcLen := rfl
@[simp] theorem State.observe_cmdId (o : Observed) : (s.observe o).cmdId = s.cmdId := rfl
@[simp] theorem State.observe_height (o : Observed) : (s.observe o).height = s.height := rfl
@[simp] theorem State.observe_crc (o : Observed) : (s.observe o).crc = s.crc := rfl
@[simp] theorem State.observe_outLen (o : Observed) : (s.observe o).outLen = s.outLen := rfl
@[simp] theorem State.observe_outHeight (o : Observed) : (s.observe o).outHeight = s.outHeight := rfl
@[simp] theorem State.observe_pId (o : Observed) : (s.observe o).pId = s.pId := rfl
@[simp] theorem State.observe_pLen (o : Observed) : (s.observe o).pLen = s.pLen := rfl
@[simp] theorem State.observe_pOff (o : Observed) : (s.observe o).pOff = s.pOff := rfl
@[simp] theorem State.observe_pRsvd (o : Observed) : (s.observe o).pRsvd = s.pRsvd := rfl
@[simp] theorem State.observe_pFlags (o : Observed) : (s.observe o).pFlags = s.pFlags := rfl
@[simp] theorem State.observe_crcWork (o : Observed) : (s.observe o).crcWork = s.crcWork := rfl
@[simp] theorem State.observe_src (o : Observed) : (s.observe o).src = s.src := rfl
@[simp] theorem State.observe_dst (o : Observed) : (s.observe o).dst = s.dst := rfl
@[simp] theorem State.observe_program (o : Observed) : (s.observe o).program = s.program := rfl
@[simp] theorem State.observe_turns (o : Observed) : (s.observe o).turns = s.turns := rfl
@[simp] theorem State.observe_transcript (o : Observed) : (s.observe o).transcript = o :: s.transcript := rfl
@[simp] theorem State.observe_draws (o : Observed) : (s.observe o).draws = s.draws := rfl
@[simp] theorem State.observe_busy (o : Observed) : (s.observe o).busy = s.busy := rfl

/-! ### State.countDraw -/

@[simp] theorem State.countDraw_cfg : s.countDraw.cfg = s.cfg := rfl
@[simp] theorem State.countDraw_seq : s.countDraw.seq = s.seq := rfl
@[simp] theorem State.countDraw_done : s.countDraw.done = s.done := rfl
@[simp] theorem State.countDraw_err : s.countDraw.err = s.err := rfl
@[simp] theorem State.countDraw_ovr : s.countDraw.ovr = s.ovr := rfl
@[simp] theorem State.countDraw_srcLen : s.countDraw.srcLen = s.srcLen := rfl
@[simp] theorem State.countDraw_cmdId : s.countDraw.cmdId = s.cmdId := rfl
@[simp] theorem State.countDraw_height : s.countDraw.height = s.height := rfl
@[simp] theorem State.countDraw_crc : s.countDraw.crc = s.crc := rfl
@[simp] theorem State.countDraw_outLen : s.countDraw.outLen = s.outLen := rfl
@[simp] theorem State.countDraw_outHeight : s.countDraw.outHeight = s.outHeight := rfl
@[simp] theorem State.countDraw_pId : s.countDraw.pId = s.pId := rfl
@[simp] theorem State.countDraw_pLen : s.countDraw.pLen = s.pLen := rfl
@[simp] theorem State.countDraw_pOff : s.countDraw.pOff = s.pOff := rfl
@[simp] theorem State.countDraw_pRsvd : s.countDraw.pRsvd = s.pRsvd := rfl
@[simp] theorem State.countDraw_pFlags : s.countDraw.pFlags = s.pFlags := rfl
@[simp] theorem State.countDraw_crcWork : s.countDraw.crcWork = s.crcWork := rfl
@[simp] theorem State.countDraw_src : s.countDraw.src = s.src := rfl
@[simp] theorem State.countDraw_dst : s.countDraw.dst = s.dst := rfl
@[simp] theorem State.countDraw_program : s.countDraw.program = s.program := rfl
@[simp] theorem State.countDraw_turns : s.countDraw.turns = s.turns := rfl
@[simp] theorem State.countDraw_transcript : s.countDraw.transcript = s.transcript := rfl
@[simp] theorem State.countDraw_draws : s.countDraw.draws = s.draws + 1 := rfl
@[simp] theorem State.countDraw_busy : s.countDraw.busy = s.busy := rfl

/-! ### State.endHostOp -/

@[simp] theorem State.endHostOp_cfg : s.endHostOp.cfg = s.cfg := rfl
@[simp] theorem State.endHostOp_seq : s.endHostOp.seq = s.seq := rfl
@[simp] theorem State.endHostOp_done : s.endHostOp.done = s.done := rfl
@[simp] theorem State.endHostOp_err : s.endHostOp.err = s.err := rfl
@[simp] theorem State.endHostOp_ovr : s.endHostOp.ovr = s.ovr := rfl
@[simp] theorem State.endHostOp_srcLen : s.endHostOp.srcLen = s.srcLen := rfl
@[simp] theorem State.endHostOp_cmdId : s.endHostOp.cmdId = s.cmdId := rfl
@[simp] theorem State.endHostOp_height : s.endHostOp.height = s.height := rfl
@[simp] theorem State.endHostOp_crc : s.endHostOp.crc = s.crc := rfl
@[simp] theorem State.endHostOp_outLen : s.endHostOp.outLen = s.outLen := rfl
@[simp] theorem State.endHostOp_outHeight : s.endHostOp.outHeight = s.outHeight := rfl
@[simp] theorem State.endHostOp_pId : s.endHostOp.pId = s.pId := rfl
@[simp] theorem State.endHostOp_pLen : s.endHostOp.pLen = s.pLen := rfl
@[simp] theorem State.endHostOp_pOff : s.endHostOp.pOff = s.pOff := rfl
@[simp] theorem State.endHostOp_pRsvd : s.endHostOp.pRsvd = s.pRsvd := rfl
@[simp] theorem State.endHostOp_pFlags : s.endHostOp.pFlags = s.pFlags := rfl
@[simp] theorem State.endHostOp_crcWork : s.endHostOp.crcWork = s.crcWork := rfl
@[simp] theorem State.endHostOp_src : s.endHostOp.src = s.src := rfl
@[simp] theorem State.endHostOp_dst : s.endHostOp.dst = s.dst := rfl
@[simp] theorem State.endHostOp_program : s.endHostOp.program = s.program.tail := rfl
@[simp] theorem State.endHostOp_turns : s.endHostOp.turns = s.turns := rfl
@[simp] theorem State.endHostOp_transcript : s.endHostOp.transcript = s.transcript := rfl
@[simp] theorem State.endHostOp_draws : s.endHostOp.draws = s.draws := rfl
@[simp] theorem State.endHostOp_busy : s.endHostOp.busy = s.busy := rfl

/-! ### State.endTurn -/

@[simp] theorem State.endTurn_cfg : s.endTurn.cfg = s.cfg := rfl
@[simp] theorem State.endTurn_seq : s.endTurn.seq = s.seq := rfl
@[simp] theorem State.endTurn_done : s.endTurn.done = s.done := rfl
@[simp] theorem State.endTurn_err : s.endTurn.err = s.err := rfl
@[simp] theorem State.endTurn_ovr : s.endTurn.ovr = s.ovr := rfl
@[simp] theorem State.endTurn_srcLen : s.endTurn.srcLen = s.srcLen := rfl
@[simp] theorem State.endTurn_cmdId : s.endTurn.cmdId = s.cmdId := rfl
@[simp] theorem State.endTurn_height : s.endTurn.height = s.height := rfl
@[simp] theorem State.endTurn_crc : s.endTurn.crc = s.crc := rfl
@[simp] theorem State.endTurn_outLen : s.endTurn.outLen = s.outLen := rfl
@[simp] theorem State.endTurn_outHeight : s.endTurn.outHeight = s.outHeight := rfl
@[simp] theorem State.endTurn_pId : s.endTurn.pId = s.pId := rfl
@[simp] theorem State.endTurn_pLen : s.endTurn.pLen = s.pLen := rfl
@[simp] theorem State.endTurn_pOff : s.endTurn.pOff = s.pOff := rfl
@[simp] theorem State.endTurn_pRsvd : s.endTurn.pRsvd = s.pRsvd := rfl
@[simp] theorem State.endTurn_pFlags : s.endTurn.pFlags = s.pFlags := rfl
@[simp] theorem State.endTurn_crcWork : s.endTurn.crcWork = s.crcWork := rfl
@[simp] theorem State.endTurn_src : s.endTurn.src = s.src := rfl
@[simp] theorem State.endTurn_dst : s.endTurn.dst = s.dst := rfl
@[simp] theorem State.endTurn_program : s.endTurn.program = s.program := rfl
@[simp] theorem State.endTurn_turns : s.endTurn.turns = s.turns.tail := rfl
@[simp] theorem State.endTurn_transcript : s.endTurn.transcript = s.transcript := rfl
@[simp] theorem State.endTurn_draws : s.endTurn.draws = s.draws := rfl
@[simp] theorem State.endTurn_busy : s.endTurn.busy = s.busy := rfl

/-! ### State.hostReset -/

@[simp] theorem State.hostReset_cfg : s.hostReset.cfg = s.cfg := rfl
@[simp] theorem State.hostReset_seq : s.hostReset.seq = .idle := rfl
@[simp] theorem State.hostReset_done : s.hostReset.done = false := rfl
@[simp] theorem State.hostReset_err : s.hostReset.err = .ok := rfl
@[simp] theorem State.hostReset_ovr : s.hostReset.ovr = false := rfl
@[simp] theorem State.hostReset_srcLen : s.hostReset.srcLen = 0 := rfl
@[simp] theorem State.hostReset_cmdId : s.hostReset.cmdId = 0 := rfl
@[simp] theorem State.hostReset_height : s.hostReset.height = 0 := rfl
@[simp] theorem State.hostReset_crc : s.hostReset.crc = 0 := rfl
@[simp] theorem State.hostReset_outLen : s.hostReset.outLen = 0 := rfl
@[simp] theorem State.hostReset_outHeight : s.hostReset.outHeight = 0 := rfl
@[simp] theorem State.hostReset_pId : s.hostReset.pId = 0 := rfl
@[simp] theorem State.hostReset_pLen : s.hostReset.pLen = 0 := rfl
@[simp] theorem State.hostReset_pOff : s.hostReset.pOff = 0 := rfl
@[simp] theorem State.hostReset_pRsvd : s.hostReset.pRsvd = 0 := rfl
@[simp] theorem State.hostReset_pFlags : s.hostReset.pFlags = 0 := rfl
@[simp] theorem State.hostReset_crcWork : s.hostReset.crcWork = 0 := rfl
@[simp] theorem State.hostReset_src : s.hostReset.src = [] := rfl
@[simp] theorem State.hostReset_dst : s.hostReset.dst = [] := rfl
@[simp] theorem State.hostReset_program : s.hostReset.program = s.program := rfl
@[simp] theorem State.hostReset_turns : s.hostReset.turns = s.turns := rfl
@[simp] theorem State.hostReset_transcript : s.hostReset.transcript = s.transcript := rfl
@[simp] theorem State.hostReset_draws : s.hostReset.draws = s.draws := rfl

/-! ### STATUS.BUSY -/

@[simp] theorem State.issue_busy (w : Word) : (s.issue w).busy = true := rfl
@[simp] theorem State.complete_busy (e : ErrCode) : (s.complete e).busy = false := rfl
@[simp] theorem State.hostReset_busy : s.hostReset.busy = false := rfl

theorem State.busy_of_pending {s : State} {w : Word} (h : s.seq = .pending w) : s.busy = true := by
  simp [State.busy, h]

theorem State.busy_eq_true_iff {s : State} : s.busy = true ↔ ∃ w, s.seq = .pending w := by
  cases h : s.seq <;> simp [State.busy, h]

theorem State.busy_eq_false_iff {s : State} : s.busy = false ↔ s.seq = .idle := by
  simp [State.busy]

end Sys2Proof.Machine
end

