-- ==== Sys2Proof/Laws/Completion.lean ====
section
/-! SUPPORT. What the shared operations of a command can do: the raise, the SRC reads, the completion of R209. -/

namespace Sys2Proof.Machine

@[simp] theorem Cmd.bind_ok {α β : Type} (a : α) (f : α → Cmd β) : ((Except.ok a : Cmd α) >>= f) = f a := rfl

@[simp] theorem Cmd.bind_error {α β : Type} (e : Abort) (f : α → Cmd β) :
    ((Except.error e : Cmd α) >>= f) = .error e := rfl

@[simp] theorem Cmd.pure_eq {α : Type} (a : α) : (pure a : Cmd α) = .ok a := rfl

/-- A computation that succeeds has a first part that succeeds. -/
theorem Cmd.bind_eq_ok {α β : Type} {x : Cmd α} {f : α → Cmd β} {b : β} (h : (x >>= f) = .ok b) :
    ∃ a, x = .ok a ∧ f a = .ok b := by
  cases x with
  | ok a => exact ⟨a, rfl, h⟩
  | error e => cases h

theorem raiseIf_pos {bad : Prop} [Decidable bad] {e : ErrCode} (h : bad) :
    raiseIf bad e = .error (.error e) := if_pos h

theorem raiseIf_neg {bad : Prop} [Decidable bad] {e : ErrCode} (h : ¬ bad) : raiseIf bad e = .ok () := if_neg h

theorem raiseIf_ok {bad : Prop} [Decidable bad] {e : ErrCode} {u : Unit} (h : raiseIf bad e = .ok u) : ¬ bad := by
  intro hb; rw [raiseIf_pos hb] at h; cases h

theorem State.srcByte_some {s : State} {a : Nat} {b : Byte} (h : s.src.read a = some b) : s.srcByte a = .ok b := by
  rw [State.srcByte, h]

theorem State.srcByte_none {s : State} {a : Nat} (h : s.src.read a = none) : s.srcByte a = .error .uninit := by
  rw [State.srcByte, h]

theorem State.srcByte_ok {s : State} {a : Nat} {b : Byte} (h : s.srcByte a = .ok b) : s.src.read a = some b := by
  unfold State.srcByte at h
  split at h
  · rename_i b' hb; cases h; exact hb
  · cases h

theorem State.srcRun_some {s : State} {n a : Nat} {bs : List Byte} (h : s.src.readRun n a = some bs) :
    s.srcRun n a = .ok bs := by
  rw [State.srcRun, h]

/-- SRC holds the bytes, so the block reads them. -/
theorem State.srcRun_of_holds {s : State} {n a : Nat} {bs : List Byte} (hl : bs.length = n)
    (h : s.src.holds a bs) : s.srcRun n a = .ok bs := State.srcRun_some (Memory.readRun_of_holds hl h)

theorem State.srcRun_ok {s : State} {n a : Nat} {bs : List Byte} (h : s.srcRun n a = .ok bs) :
    bs.length = n ∧ s.src.holds a bs := by
  unfold State.srcRun at h
  split at h
  · rename_i b' hb; cases h; exact Memory.readRun_eq_some_iff.mp hb
  · cases h

/-- One `undef` byte in the range, and the block's read is UNINIT (R57). -/
theorem State.srcRun_undef {s : State} {n a i : Nat} (hi : i < n) (h : s.src.read (a + i) = none) :
    s.srcRun n a = .error .uninit := by
  rw [State.srcRun, Memory.readRun_eq_none_iff.mpr ⟨i, hi, h⟩]

theorem State.srcRun_congr {s₁ s₂ : State} {n a : Nat} (h : s₁.src = s₂.src) : s₁.srcRun n a = s₂.srcRun n a := by
  rw [State.srcRun, State.srcRun, h]

@[simp] theorem finish_ok (s t : State) : finish s (.ok t) = .next (t.complete .ok) := rfl

@[simp] theorem finish_raise (s : State) (e : ErrCode) : finish s (.error (.error e)) = .next (s.complete e) := rfl

@[simp] theorem finish_uninit (s : State) : finish s (.error .uninit) = .fault .uninit := rfl

/-- Everything a completion can do (R209): the command's results with E_OK, or an error code and nothing else. -/
theorem finish_next {s t : State} {r : Cmd State} (h : finish s r = .next t) :
    (∃ u, r = .ok u ∧ t = u.complete .ok) ∨ ∃ e, r = .error (.error e) ∧ t = s.complete e := by
  match r, h with
  | .ok u, h => exact .inl ⟨u, rfl, by cases h; rfl⟩
  | .error (.error e), h => exact .inr ⟨e, rfl, by cases h; rfl⟩

/-- A completion takes a next state or is UNINIT (R200, R216). -/
theorem finish_outcome (s : State) (r : Cmd State) : (∃ t, finish s r = .next t) ∨ finish s r = .fault .uninit := by
  match r with
  | .ok u => exact .inl ⟨_, rfl⟩
  | .error (.error e) => exact .inl ⟨_, rfl⟩
  | .error .uninit => exact .inr rfl

end Sys2Proof.Machine
end

