-- ==== Sys2Proof/Laws/Crc.lean ====
section
/-! SUPPORT. The CRC function and what the pseudocode of CRC8 can answer. -/

namespace Sys2Proof.Machine

@[simp] theorem crc8_nil (cfg : Config) : crc8 cfg [] = 0 := rfl

theorem crc8_append (cfg : Config) (p q : List Byte) :
    crc8 cfg (p ++ q) = q.foldl (crcStep cfg) (crc8 cfg p) := List.foldl_append

theorem crc8_concat (cfg : Config) (p : List Byte) (b : Byte) :
    crc8 cfg (p ++ [b]) = crcStep cfg (crc8 cfg p) b := crc8_append cfg p [b]

theorem crc8Command_of_holds {s : State} {data : List Byte} (hl : data.length = s.srcCount)
    (hs : s.srcCount ≤ s.cfg.srcSize) (h : s.src.holds 0 data) :
    crc8Command s = .ok (s.storeCrc (crc8 s.cfg data)) := by
  simp [crc8Command, raiseIf_neg (Nat.not_lt.mpr hs), State.srcRun_of_holds hl h]

theorem crc8Command_range {s : State} (h : s.srcCount > s.cfg.srcSize) : crc8Command s = .error (.error .range) := by
  simp [crc8Command, raiseIf_pos h]

theorem crc8Command_undef {s : State} {i : Nat} (hs : s.srcCount ≤ s.cfg.srcSize) (hi : i < s.srcCount)
    (h : s.src.read i = none) : crc8Command s = .error .uninit := by
  have hu : s.srcRun s.srcCount 0 = .error .uninit := State.srcRun_undef hi (by simpa using h)
  simp [crc8Command, raiseIf_neg (Nat.not_lt.mpr hs), hu]

/-- Everything a successful CRC8 does: CRC and the working register, from the data SRC holds. -/
theorem crc8Command_ok {s u : State} (h : crc8Command s = .ok u) :
    ∃ data, data.length = s.srcCount ∧ s.srcCount ≤ s.cfg.srcSize ∧ s.src.holds 0 data ∧
      u = s.storeCrc (crc8 s.cfg data) := by
  obtain ⟨_, h1, h⟩ := Cmd.bind_eq_ok h
  obtain ⟨data, h2, h⟩ := Cmd.bind_eq_ok h
  obtain ⟨hl, hh⟩ := State.srcRun_ok h2
  exact ⟨data, hl, Nat.not_lt.mp (raiseIf_ok h1), hh, by cases h; rfl⟩

end Sys2Proof.Machine
end

