-- ==== Sys2Proof/Laws/Codec.lean ====
section
/-! SUPPORT. The frame, the length field, and what the pseudocode of BUILD and PARSE can answer. -/

namespace Sys2Proof.Machine

/-! ### The length field (R77) -/

theorem lengthField_eq_append (lo hi : Byte) : lengthField lo hi = hi ++ lo := by
  apply BitVec.eq_of_getLsbD_eq
  intro i hlt
  simp only [lengthField, BitVec.getLsbD_or, BitVec.getLsbD_setWidth, BitVec.getLsbD_shiftLeft, BitVec.getLsbD_append]
  by_cases h : i < 8
  · simp [h, hlt]
  · have : lo.getLsbD i = false := BitVec.getLsbD_of_ge _ _ (by omega)
    simp [h, hlt, this]
    omega

theorem lengthField_toNat (lo hi : Byte) : (lengthField lo hi).toNat = lo.toNat + 256 * hi.toNat := by
  have h := Nat.two_pow_add_eq_or_of_lt lo.isLt hi.toNat
  rw [lengthField_eq_append, BitVec.toNat_append, Nat.shiftLeft_eq, Nat.mul_comm, ← h]
  omega

/-- Splitting a length and assembling it again. -/
theorem lengthField_split (len : BitVec 16) : lengthField (lenLo len) (lenHi len) = len := by
  rw [lengthField_eq_append]
  apply BitVec.eq_of_getLsbD_eq
  intro i hlt
  simp only [BitVec.getLsbD_append, lenLo, lenHi, BitVec.getLsbD_extractLsb']
  by_cases h : i < 8
  · simp [h]
  · simp only [h, decide_false, show 8 + (i - 8) = i by omega]
    simp; omega

/-! ### The frame (R76) -/

theorem commandFrame_eq (cfg : Config) (id : Byte) (p : List Byte) :
    commandFrame cfg id p =
      [0x22, 0x21, id, 0x00, lenLo (BitVec.ofNat 16 p.length), lenHi (BitVec.ofNat 16 p.length)] ++ p
        ++ [crc8 cfg p, 0xFF] := rfl

@[simp] theorem commandFrame_length (cfg : Config) (id : Byte) (p : List Byte) :
    (commandFrame cfg id p).length = 8 + p.length := by
  simp [commandFrame_eq]; omega

theorem commandFrame_payload (cfg : Config) (id : Byte) (p : List Byte) {i : Nat} (h : i < p.length) :
    (commandFrame cfg id p)[6 + i]? = p[i]? := by
  rw [commandFrame_eq, List.getElem?_append_left (by simp; omega), List.getElem?_append_right (by simp)]
  simp

theorem commandFrame_crc (cfg : Config) (id : Byte) (p : List Byte) :
    (commandFrame cfg id p)[6 + p.length]? = some (crc8 cfg p) := by
  rw [commandFrame_eq, List.getElem?_append_right (by simp; omega)]
  simp [show 6 + p.length - (p.length + 1 + 1 + 1 + 1 + 1 + 1) = 0 by omega]

theorem commandFrame_footer (cfg : Config) (id : Byte) (p : List Byte) :
    (commandFrame cfg id p)[7 + p.length]? = some 0xFF := by
  rw [commandFrame_eq, List.getElem?_append_right (by simp; omega)]
  simp [show 7 + p.length - (p.length + 6) = 1 by omega]

/-! ### BUILD (R120) -/

theorem buildCommand_of_holds {s : State} {p : List Byte} (hl : p.length = s.srcCount) (hm : s.srcCount ≤ 65535)
    (hs : s.srcCount ≤ s.cfg.srcSize) (hd : 8 + s.srcCount ≤ s.cfg.dstSize) (h : s.src.holds 0 p) :
    buildCommand s = .ok ((s.storeCrc (crc8 s.cfg p)).storeOutput (commandFrame s.cfg s.cmdId p)) := by
  simp [buildCommand, raiseIf_neg (Nat.not_lt.mpr hm), raiseIf_neg (Nat.not_lt.mpr hs),
    raiseIf_neg (Nat.not_lt.mpr hd), State.srcRun_of_holds hl h]

theorem buildCommand_len {s : State} (h : s.srcCount > 65535) : buildCommand s = .error (.error .len) := by
  simp [buildCommand, raiseIf_pos h]

theorem buildCommand_range {s : State} (hm : s.srcCount ≤ 65535)
    (h : s.srcCount > s.cfg.srcSize ∨ 8 + s.srcCount > s.cfg.dstSize) :
    buildCommand s = .error (.error .range) := by
  by_cases hs : s.srcCount > s.cfg.srcSize
  · simp [buildCommand, raiseIf_neg (Nat.not_lt.mpr hm), raiseIf_pos hs]
  · simp [buildCommand, raiseIf_neg (Nat.not_lt.mpr hm), raiseIf_neg hs, raiseIf_pos (h.resolve_left hs)]

theorem buildCommand_undef {s : State} {i : Nat} (hm : s.srcCount ≤ 65535) (hs : s.srcCount ≤ s.cfg.srcSize)
    (hd : 8 + s.srcCount ≤ s.cfg.dstSize) (hi : i < s.srcCount) (h : s.src.read i = none) :
    buildCommand s = .error .uninit := by
  have hu : s.srcRun s.srcCount 0 = .error .uninit := State.srcRun_undef hi (by simpa using h)
  simp [buildCommand, raiseIf_neg (Nat.not_lt.mpr hm), raiseIf_neg (Nat.not_lt.mpr hs),
    raiseIf_neg (Nat.not_lt.mpr hd), hu]

/-- Everything a successful BUILD does: the checks passed, and CRC, DST and OUT_LEN written from the payload SRC
holds. -/
theorem buildCommand_ok {s u : State} (h : buildCommand s = .ok u) :
    ∃ p, p.length = s.srcCount ∧ s.srcCount ≤ 65535 ∧ s.srcCount ≤ s.cfg.srcSize ∧ 8 + s.srcCount ≤ s.cfg.dstSize ∧
      s.src.holds 0 p ∧ u = (s.storeCrc (crc8 s.cfg p)).storeOutput (commandFrame s.cfg s.cmdId p) := by
  obtain ⟨_, h1, h⟩ := Cmd.bind_eq_ok h
  obtain ⟨_, h2, h⟩ := Cmd.bind_eq_ok h
  obtain ⟨_, h3, h⟩ := Cmd.bind_eq_ok h
  obtain ⟨p, h4, h⟩ := Cmd.bind_eq_ok h
  obtain ⟨hl, hh⟩ := State.srcRun_ok h4
  exact ⟨p, hl, Nat.not_lt.mp (raiseIf_ok h1), Nat.not_lt.mp (raiseIf_ok h2), Nat.not_lt.mp (raiseIf_ok h3), hh,
    by cases h; rfl⟩

/-! ### PARSE (R124) -/

theorem trailerBytes_short {s : State} {n len : Nat} (h : n < 8 + len) : trailerBytes s n len = .ok none :=
  if_neg (Nat.not_le.mpr h)

theorem trailerBytes_of_reads {s : State} {n len : Nat} {crcByte ftrByte : Byte} (h : 8 + len ≤ n)
    (hc : s.src.read (6 + len) = some crcByte) (hf : s.src.read (7 + len) = some ftrByte) :
    trailerBytes s n len = .ok (some (crcByte, ftrByte)) := by
  have h' : n ≥ Param.FRAME_OVERHEAD + len := h
  have hc' : s.srcByte (Param.PAYLOAD_OFF + len) = .ok crcByte := State.srcByte_some hc
  have hf' : s.srcByte (Param.PAYLOAD_OFF + 1 + len) = .ok ftrByte := State.srcByte_some hf
  rw [trailerBytes, if_pos h', hc', Cmd.bind_ok, hf', Cmd.bind_ok, Cmd.pure_eq]

theorem trailerBytes_ok {s : State} {n len : Nat} {t : Option (Byte × Byte)} (h : trailerBytes s n len = .ok t) :
    (n < 8 + len ∧ t = none) ∨
      ∃ crcByte ftrByte, 8 + len ≤ n ∧ s.src.read (6 + len) = some crcByte ∧ s.src.read (7 + len) = some ftrByte ∧
        t = some (crcByte, ftrByte) := by
  unfold trailerBytes at h
  split at h
  · rename_i hn
    obtain ⟨c, h1, h⟩ := Cmd.bind_eq_ok h
    obtain ⟨f, h2, h⟩ := Cmd.bind_eq_ok h
    exact .inr ⟨c, f, hn, State.srcByte_ok h1, State.srcByte_ok h2, by cases h; rfl⟩
  · rename_i hn
    exact .inl ⟨Nat.not_le.mp hn, by cases h; rfl⟩

theorem trailerBytes_undef {s : State} {n len : Nat} (h : 8 + len ≤ n)
    (hu : s.src.read (6 + len) = none ∨ s.src.read (7 + len) = none) : trailerBytes s n len = .error .uninit := by
  have h' : n ≥ Param.FRAME_OVERHEAD + len := h
  rw [trailerBytes, if_pos h']
  cases hc : s.src.read (6 + len) with
  | none =>
    have hc' : s.srcByte (Param.PAYLOAD_OFF + len) = .error .uninit := State.srcByte_none hc
    rw [hc', Cmd.bind_error]
  | some c =>
    have hc' : s.srcByte (Param.PAYLOAD_OFF + len) = .ok c := State.srcByte_some hc
    have hf' : s.srcByte (Param.PAYLOAD_OFF + 1 + len) = .error .uninit :=
      State.srcByte_none (hu.resolve_left (by rw [hc]; simp))
    rw [hc', Cmd.bind_ok, hf', Cmd.bind_error]

/-- PARSE beyond its range and length checks, given the two header bytes. -/
theorem parseNotification_of_header {s : State} (hs : s.srcCount ≤ s.cfg.srcSize) (hn : 2 ≤ s.srcCount)
    {b0 b1 : Byte} (h0 : s.src.read 0 = some b0) (h1 : s.src.read 1 = some b1) (hb : b0 ≠ 0x22 ∨ b1 ≠ 0x21) :
    parseNotification s = .error (.error .header) := by
  have hb' : b0 ≠ Param.HDR0 ∨ b1 ≠ Param.HDR1 := hb
  rw [parseNotification, raiseIf_neg (Nat.not_lt.mpr hs), Cmd.bind_ok, raiseIf_neg (Nat.not_lt.mpr hn), Cmd.bind_ok,
    State.srcByte_some h0, Cmd.bind_ok, State.srcByte_some h1, Cmd.bind_ok, raiseIf_pos hb', Cmd.bind_error]

theorem parseNotification_range {s : State} (h : s.srcCount > s.cfg.srcSize) :
    parseNotification s = .error (.error .range) := by
  rw [parseNotification, raiseIf_pos h, Cmd.bind_error]

theorem parseNotification_short {s : State} (hs : s.srcCount ≤ s.cfg.srcSize) (h : s.srcCount < 2) :
    parseNotification s = .error (.error .short) := by
  rw [parseNotification, raiseIf_neg (Nat.not_lt.mpr hs), Cmd.bind_ok, raiseIf_pos h, Cmd.bind_error]

theorem parseNotification_header_undef {s : State} (hs : s.srcCount ≤ s.cfg.srcSize) (hn : 2 ≤ s.srcCount)
    (h : s.src.read 0 = none ∨ s.src.read 1 = none) : parseNotification s = .error .uninit := by
  rw [parseNotification, raiseIf_neg (Nat.not_lt.mpr hs), Cmd.bind_ok, raiseIf_neg (Nat.not_lt.mpr hn), Cmd.bind_ok]
  cases h0 : s.src.read 0 with
  | none => rw [State.srcByte_none h0, Cmd.bind_error]
  | some b =>
    rw [State.srcByte_some h0, Cmd.bind_ok, State.srcByte_none (h.resolve_left (by rw [h0]; simp)), Cmd.bind_error]

theorem parseNotification_tooShort {s : State} (hs : s.srcCount ≤ s.cfg.srcSize) (hn : 2 ≤ s.srcCount)
    (h0 : s.src.read 0 = some 0x22) (h1 : s.src.read 1 = some 0x21) (h6 : s.srcCount < 6) :
    parseNotification s = .error (.error .trunc) := by
  rw [parseNotification, raiseIf_neg (Nat.not_lt.mpr hs), Cmd.bind_ok, raiseIf_neg (Nat.not_lt.mpr hn), Cmd.bind_ok,
    State.srcByte_some h0, Cmd.bind_ok, State.srcByte_some h1, Cmd.bind_ok, raiseIf_neg (by simp), Cmd.bind_ok,
    raiseIf_pos h6, Cmd.bind_error]

theorem parseNotification_length_undef {s : State} (hs : s.srcCount ≤ s.cfg.srcSize) (h0 : s.src.read 0 = some 0x22)
    (h1 : s.src.read 1 = some 0x21) (h6 : 6 ≤ s.srcCount) (h : s.src.read 4 = none ∨ s.src.read 5 = none) :
    parseNotification s = .error .uninit := by
  have hn : ¬ s.srcCount < 2 := by omega
  rw [parseNotification, raiseIf_neg (Nat.not_lt.mpr hs), Cmd.bind_ok, raiseIf_neg hn, Cmd.bind_ok,
    State.srcByte_some h0, Cmd.bind_ok, State.srcByte_some h1, Cmd.bind_ok, raiseIf_neg (by simp), Cmd.bind_ok,
    raiseIf_neg (Nat.not_lt.mpr h6), Cmd.bind_ok]
  cases h4 : s.src.read 4 with
  | none => rw [State.srcByte_none h4, Cmd.bind_error]
  | some b =>
    rw [State.srcByte_some h4, Cmd.bind_ok, State.srcByte_none (h.resolve_left (by rw [h4]; simp)), Cmd.bind_error]

/-- A raw frame with a good header and room for its length field. -/
structure State.FrameHead (s : State) (lo hi : Byte) : Prop where
  fits : s.srcCount ≤ s.cfg.srcSize
  room : 6 ≤ s.srcCount
  hdr0 : s.src.read 0 = some 0x22
  hdr1 : s.src.read 1 = some 0x21
  lo : s.src.read 4 = some lo
  hi : s.src.read 5 = some hi

/-- What is left of PARSE after the header and the length bytes. -/
theorem parseNotification_of_head {s : State} {lo hi : Byte} (h : s.FrameHead lo hi) :
    parseNotification s = (do
      raiseIf (s.srcCount < 6 + (lengthField lo hi).toNat) .trunc
      let id ← s.srcByte 2
      let rsv ← s.srcByte 3
      let payload ← s.srcRun (lengthField lo hi).toNat 6
      let trailer ← trailerBytes s s.srcCount (lengthField lo hi).toNat
      return (s.storeCrc (crc8 s.cfg payload)).storeParsed id (lengthField lo hi) rsv
        (trailerFlags (crc8 s.cfg payload) trailer)) := by
  have hn : ¬ s.srcCount < 2 := by have := h.room; omega
  rw [parseNotification, raiseIf_neg (Nat.not_lt.mpr h.fits), Cmd.bind_ok, raiseIf_neg hn, Cmd.bind_ok,
    State.srcByte_some h.hdr0, Cmd.bind_ok, State.srcByte_some h.hdr1, Cmd.bind_ok, raiseIf_neg (by simp), Cmd.bind_ok,
    raiseIf_neg (Nat.not_lt.mpr h.room), Cmd.bind_ok, State.srcByte_some h.lo, Cmd.bind_ok, State.srcByte_some h.hi,
    Cmd.bind_ok]

theorem parseNotification_truncated {s : State} {lo hi : Byte} (h : s.FrameHead lo hi)
    (ht : s.srcCount < 6 + (lengthField lo hi).toNat) : parseNotification s = .error (.error .trunc) := by
  rw [parseNotification_of_head h, raiseIf_pos ht, Cmd.bind_error]

theorem parseNotification_of_reads {s : State} {lo hi id rsv : Byte} {payload : List Byte} {trailer : Option (Byte × Byte)}
    (h : s.FrameHead lo hi) (hl : payload.length = (lengthField lo hi).toNat)
    (hn : 6 + payload.length ≤ s.srcCount) (h2 : s.src.read 2 = some id) (h3 : s.src.read 3 = some rsv)
    (hp : s.src.holds 6 payload) (ht : trailerBytes s s.srcCount payload.length = .ok trailer) :
    parseNotification s = .ok ((s.storeCrc (crc8 s.cfg payload)).storeParsed id (lengthField lo hi) rsv
        (trailerFlags (crc8 s.cfg payload) trailer)) := by
  have hn' : ¬ s.srcCount < 6 + (lengthField lo hi).toNat := by omega
  rw [parseNotification_of_head h, raiseIf_neg hn', Cmd.bind_ok, State.srcByte_some h2, Cmd.bind_ok,
    State.srcByte_some h3, Cmd.bind_ok, State.srcRun_of_holds hl hp, Cmd.bind_ok, ← hl, ht, Cmd.bind_ok, Cmd.pure_eq]

/-- Everything a successful PARSE does: the checks it passed, the bytes it read, the registers it wrote. -/
theorem parseNotification_ok {s u : State} (h : parseNotification s = .ok u) :
    ∃ lo hi id rsv payload trailer, s.FrameHead lo hi ∧ payload.length = (lengthField lo hi).toNat ∧
      6 + payload.length ≤ s.srcCount ∧ s.src.read 2 = some id ∧ s.src.read 3 = some rsv ∧ s.src.holds 6 payload ∧
      trailerBytes s s.srcCount payload.length = .ok trailer ∧
      u = (s.storeCrc (crc8 s.cfg payload)).storeParsed id (lengthField lo hi) rsv
        (trailerFlags (crc8 s.cfg payload) trailer) := by
  obtain ⟨_, h1, h⟩ := Cmd.bind_eq_ok h
  obtain ⟨_, h2, h⟩ := Cmd.bind_eq_ok h
  obtain ⟨b0, h3, h⟩ := Cmd.bind_eq_ok h
  obtain ⟨b1, h4, h⟩ := Cmd.bind_eq_ok h
  obtain ⟨_, h5, h⟩ := Cmd.bind_eq_ok h
  obtain ⟨_, h6, h⟩ := Cmd.bind_eq_ok h
  obtain ⟨lo, h7, h⟩ := Cmd.bind_eq_ok h
  obtain ⟨hi, h8, h⟩ := Cmd.bind_eq_ok h
  obtain ⟨_, h9, h⟩ := Cmd.bind_eq_ok h
  obtain ⟨id, h10, h⟩ := Cmd.bind_eq_ok h
  obtain ⟨rsv, h11, h⟩ := Cmd.bind_eq_ok h
  obtain ⟨payload, h12, h⟩ := Cmd.bind_eq_ok h
  obtain ⟨trailer, h13, h⟩ := Cmd.bind_eq_ok h
  obtain ⟨hl, hh⟩ := State.srcRun_ok h12
  have hb := raiseIf_ok h5
  simp only [ne_eq, not_or, Decidable.not_not] at hb
  refine ⟨lo, hi, id, rsv, payload, trailer, ⟨Nat.not_lt.mp (raiseIf_ok h1), Nat.not_lt.mp (raiseIf_ok h6), ?_, ?_,
    State.srcByte_ok h7, State.srcByte_ok h8⟩, hl, ?_, State.srcByte_ok h10, State.srcByte_ok h11, hh, ?_, ?_⟩
  · rw [State.srcByte_ok h3, hb.1]
  · rw [State.srcByte_ok h4, hb.2]
  · rw [hl]; exact Nat.not_lt.mp (raiseIf_ok h9)
  · rw [hl]; exact h13
  · cases h; rfl

end Sys2Proof.Machine
end

