-- ==== Sys2Proof/Laws/Decode.lean ====
section
/-! SUPPORT. The command word: its two fields determine it. -/

namespace Sys2Proof

theorem opField_toNat (w : Word) : (opField w).toNat = w.toNat % 16 := by
  simp [opField, BitVec.extractLsb'_toNat]

theorem mbzField_toNat (w : Word) : (mbzField w).toNat = w.toNat / 16 := by
  have := w.isLt
  simp [mbzField, BitVec.extractLsb'_toNat, Nat.shiftRight_eq_div_pow]
  omega

theorem mbzField_eq_zero_iff (w : Word) : mbzField w = 0 ↔ w.toNat < 16 := by
  rw [← BitVec.toNat_inj, mbzField_toNat]
  simp

/-- The decoder on a word with MBZ zero, by its value. -/
theorem decode_of_lt {w : Word} (h : w.toNat < 16) : decode w = (match w.toNat with
    | 1 => .command .crc8
    | 2 => .command .build
    | 3 => .command .parse
    | 4 => .command .enc1
    | 5 => .command .enc4
    | _ => .illegal .op) := by
  rw [decode, if_pos ((mbzField_eq_zero_iff w).mpr h), opField_toNat, Nat.mod_eq_of_lt h]
  all_goals rfl

/-- A word above 15 has MBZ not zero. -/
theorem decode_of_ge {w : Word} (h : 16 ≤ w.toNat) : decode w = .illegal .mbz := by
  rw [decode, if_neg (by rw [mbzField_eq_zero_iff]; omega)]

/-- The words that spell no command are those outside 1 to 5 (R72). -/
theorem decode_illegal_iff (w : Word) : (∃ why, decode w = .illegal why) ↔ ¬ (1 ≤ w.toNat ∧ w.toNat ≤ 5) := by
  by_cases h : w.toNat < 16
  · rw [decode_of_lt h]
    generalize w.toNat = n at *
    interval_cases n <;> simp
  · rw [decode_of_ge (by omega)]
    simp; omega

theorem encode_toNat (i : Instr) : (encode i).toNat = i.opcode.toNat := by
  cases i <;> rfl

end Sys2Proof
end

