-- ==== Sys2Proof/Laws/Pixels.lean ====
section
/-! SUPPORT. The two packings, pixel by pixel, the padding, and what the pseudocode of ENC1 and ENC4 can answer. -/

namespace Sys2Proof.Machine

/-! ### One packed byte -/

theorem packByte1_cons (g : Byte) (px : List Byte) :
    packByte1 (g :: px) = packByte1 px <<< 1 ||| (BitVec.ofBool (dark g)).setWidth 8 := rfl

/-- Bit j of a packed byte is pixel j's darkness; a missing pixel leaves it 0 (R166). -/
theorem packByte1_getLsbD (px : List Byte) (j : Nat) (hj : j < 8) :
    (packByte1 px).getLsbD j = (px[j]?.map dark).getD false := by
  induction px generalizing j with
  | nil => simp [packByte1]
  | cons g px ih =>
    rw [packByte1_cons]
    cases j with
    | zero => simp
    | succ j =>
      have : (BitVec.ofBool (dark g)).getLsbD (j + 1) = false := BitVec.getLsbD_of_ge _ _ (by omega)
      simp only [BitVec.getLsbD_or, BitVec.getLsbD_shiftLeft, BitVec.getLsbD_setWidth, this, List.getElem?_cons_succ]
      rw [show j + 1 - 1 = j by omega, ih j (by omega)]
      simp [hj]

theorem packByte4_pair (a b : Byte) : packByte4 [a, b] = (level4 a).setWidth 8 <<< 4 ||| (level4 b).setWidth 8 := by
  simp [packByte4]

/-- The even pixel is the high nibble (R170). -/
theorem packByte4_high (a b : Byte) : (packByte4 [a, b]).extractLsb' 4 4 = level4 a := by
  rw [packByte4_pair]
  apply BitVec.eq_of_getLsbD_eq
  intro i hi
  have : (level4 b).getLsbD (4 + i) = false := BitVec.getLsbD_of_ge _ _ (by omega)
  simp only [BitVec.getLsbD_extractLsb', BitVec.getLsbD_or, BitVec.getLsbD_shiftLeft, BitVec.getLsbD_setWidth, this]
  rw [show 4 + i - 4 = i by omega]
  simp [hi, show 4 + i < 8 by omega, show i < 8 by omega]

/-- The odd pixel is the low nibble (R170). -/
theorem packByte4_low (a b : Byte) : (packByte4 [a, b]).extractLsb' 0 4 = level4 b := by
  rw [packByte4_pair]
  apply BitVec.eq_of_getLsbD_eq
  intro i hi
  simp [hi]
  omega

/-- (255 - gray) >> 4 as a number (R169). -/
theorem level4_toNat (g : Byte) : (level4 g).toNat = (255 - g.toNat) / 16 := by
  revert g; decide

/-! ### The packed buffer -/

@[simp] theorem packLines_length (per : Nat) (pack : List Byte → Byte) (size : Nat) (px : List Byte) :
    (packLines per pack size px).length = size := by
  induction size generalizing px with
  | zero => rfl
  | succ n ih => simp [packLines, ih]

/-- Byte k packs pixels per * k up to per * (k + 1). -/
theorem packLines_getElem? (per : Nat) (pack : List Byte → Byte) (size : Nat) (px : List Byte) {k : Nat}
    (hk : k < size) : (packLines per pack size px)[k]? = some (pack ((px.drop (per * k)).take per)) := by
  induction size generalizing px k with
  | zero => omega
  | succ n ih =>
    cases k with
    | zero => simp [packLines]
    | succ k =>
      rw [packLines, List.getElem?_cons_succ, ih (px.drop per) (by omega), List.drop_drop]
      congr 4
      rw [Nat.mul_succ, Nat.add_comm]

/-! ### The padded raster (R163) -/

theorem paddedRaster_length {rows paddedRows : Nat} {raster : List Byte} (hl : raster.length = 384 * rows)
    (hp : rows ≤ paddedRows) : (paddedRaster rows paddedRows raster).length = 384 * paddedRows := by
  simp [paddedRaster, hl]
  omega

theorem paddedRaster_getElem? {rows paddedRows : Nat} {raster : List Byte} (hl : raster.length = 384 * rows)
    (hp : rows ≤ paddedRows) {p : Nat} (h : p < 384 * paddedRows) :
    (paddedRaster rows paddedRows raster)[p]? = some (raster.getD p 255) := by
  rw [paddedRaster]
  by_cases hr : p < raster.length
  · rw [List.getElem?_append_left hr]; simp [hr]
  · rw [List.getElem?_append_right (by omega), List.getElem?_replicate, if_pos (by simp; omega)]
    simp [List.getD_eq_getElem?_getD, List.getElem?_eq_none (Nat.not_lt.mp hr)]

/-- ENC1's output, pixel by pixel (R166): pixel p of the padded raster is bit p AND 7 of byte p >> 3. -/
theorem packLines1_pixel {rows paddedRows : Nat} {raster : List Byte} (hl : raster.length = 384 * rows)
    (hp : rows ≤ paddedRows) {p : Nat} (h : p < 384 * paddedRows) :
    ∃ b, (packLines 8 packByte1 (48 * paddedRows) (paddedRaster rows paddedRows raster))[p / 8]? = some b ∧
      b.getLsbD (p % 8) = dark (raster.getD p 255) := by
  refine ⟨_, packLines_getElem? 8 packByte1 _ _ (by omega), ?_⟩
  rw [packByte1_getLsbD _ _ (by omega), List.getElem?_take, if_pos (by omega), List.getElem?_drop,
    show 8 * (p / 8) + p % 8 = p by omega, paddedRaster_getElem? hl hp h]
  rfl

/-- ENC4's output, pixel by pixel (R170): pixel p of the padded raster is a nibble of byte p >> 1, the high one for an
even p. -/
theorem packLines4_pixel {rows paddedRows : Nat} {raster : List Byte} (hl : raster.length = 384 * rows)
    (hp : rows ≤ paddedRows) {p : Nat} (h : p < 384 * paddedRows) :
    ∃ b, (packLines 2 packByte4 (192 * paddedRows) (paddedRaster rows paddedRows raster))[p / 2]? = some b ∧
      b.extractLsb' (if p % 2 = 0 then 4 else 0) 4 = level4 (raster.getD p 255) := by
  refine ⟨_, packLines_getElem? 2 packByte4 _ _ (by omega), ?_⟩
  have hlen := paddedRaster_length hl hp
  have hpair : ((paddedRaster rows paddedRows raster).drop (2 * (p / 2))).take 2 =
      [raster.getD (2 * (p / 2)) 255, raster.getD (2 * (p / 2) + 1) 255] := by
    apply List.ext_getElem?
    intro i
    rw [List.getElem?_take]
    by_cases hi : i < 2
    · rw [if_pos hi, List.getElem?_drop, paddedRaster_getElem? hl hp (by omega)]
      rcases Nat.lt_succ_iff_lt_or_eq.mp hi with h0 | rfl
      · obtain rfl : i = 0 := by omega
        rfl
      · rfl
    · rw [if_neg hi]
      exact (List.getElem?_eq_none (by simp; omega)).symm
  rw [hpair]
  by_cases he : p % 2 = 0
  · rw [if_pos he, packByte4_high, show 2 * (p / 2) = p by omega]
  · rw [if_neg he, packByte4_low, show 2 * (p / 2) + 1 = p by omega]

/-! ### The pseudocode of R164 and R168 -/

theorem State.rows_le_paddedRows (s : State) : s.rows ≤ s.paddedRows := Nat.le_max_left _ _

theorem State.paddedRows_bounds (s : State) : 86 ≤ s.paddedRows ∧ s.paddedRows ≤ 65535 := by
  have := s.height.isLt
  refine ⟨Nat.le_max_right _ _, Nat.max_le.mpr ⟨?_, by simp⟩⟩
  simp only [State.rows]; omega

theorem encodePixels_of_holds {bpl per : Nat} {pack : List Byte → Byte} {s : State} {raster : List Byte}
    (hl : raster.length = 384 * s.rows) (hs : 384 * s.rows ≤ s.cfg.srcSize) (hd : bpl * s.paddedRows ≤ s.cfg.dstSize)
    (h : s.src.holds 0 raster) :
    encodePixels bpl per pack s = .ok ((s.storeOutput (packLines per pack (bpl * s.paddedRows)
      (paddedRaster s.rows s.paddedRows raster))).storeOutHeight s.paddedRows) := by
  have hs' : ¬ s.rasterBytes > s.cfg.srcSize := Nat.not_lt.mpr hs
  have hr : s.srcRun s.rasterBytes 0 = .ok raster := State.srcRun_of_holds hl h
  rw [encodePixels, raiseIf_neg hs', Cmd.bind_ok]
  simp only
  rw [raiseIf_neg (Nat.not_lt.mpr hd), Cmd.bind_ok, hr, Cmd.bind_ok, Cmd.pure_eq]

theorem encodePixels_range {bpl per : Nat} {pack : List Byte → Byte} {s : State}
    (h : 384 * s.rows > s.cfg.srcSize ∨ bpl * s.paddedRows > s.cfg.dstSize) :
    encodePixels bpl per pack s = .error (.error .range) := by
  rw [encodePixels]
  by_cases hs : s.rasterBytes > s.cfg.srcSize
  · rw [raiseIf_pos hs, Cmd.bind_error]
  · rw [raiseIf_neg hs, Cmd.bind_ok]
    simp only
    rw [raiseIf_pos (h.resolve_left hs), Cmd.bind_error]

theorem encodePixels_undef {bpl per : Nat} {pack : List Byte → Byte} {s : State} {i : Nat}
    (hs : 384 * s.rows ≤ s.cfg.srcSize) (hd : bpl * s.paddedRows ≤ s.cfg.dstSize) (hi : i < 384 * s.rows)
    (h : s.src.read i = none) : encodePixels bpl per pack s = .error .uninit := by
  have hs' : ¬ s.rasterBytes > s.cfg.srcSize := Nat.not_lt.mpr hs
  have hr : s.srcRun s.rasterBytes 0 = .error .uninit := State.srcRun_undef (i := i) hi (by simpa using h)
  rw [encodePixels, raiseIf_neg hs', Cmd.bind_ok]
  simp only
  rw [raiseIf_neg (Nat.not_lt.mpr hd), Cmd.bind_ok, hr, Cmd.bind_error]

/-- Everything a successful encode does: the range checks passed, and DST, OUT_LEN and OUT_HEIGHT written from the
raster SRC holds. -/
theorem encodePixels_ok {bpl per : Nat} {pack : List Byte → Byte} {s u : State} (h : encodePixels bpl per pack s = .ok u) :
    ∃ raster, raster.length = 384 * s.rows ∧ 384 * s.rows ≤ s.cfg.srcSize ∧ bpl * s.paddedRows ≤ s.cfg.dstSize ∧
      s.src.holds 0 raster ∧ u = (s.storeOutput (packLines per pack (bpl * s.paddedRows)
        (paddedRaster s.rows s.paddedRows raster))).storeOutHeight s.paddedRows := by
  obtain ⟨_, h1, h⟩ := Cmd.bind_eq_ok h
  obtain ⟨_, h2, h⟩ := Cmd.bind_eq_ok h
  obtain ⟨raster, h3, h⟩ := Cmd.bind_eq_ok h
  obtain ⟨hl, hh⟩ := State.srcRun_ok h3
  exact ⟨raster, hl, Nat.not_lt.mp (raiseIf_ok h1), Nat.not_lt.mp (raiseIf_ok h2), hh, by cases h; rfl⟩

end Sys2Proof.Machine
end

