-- ==== Sys2Proof/Laws/Exec.lean ====
section
/-! SUPPORT. What every command has in common: it is a completion (R209) of a pseudocode that writes result registers
and DST only. -/

namespace Sys2Proof.Machine

/-- The pseudocode of each command. -/
def commandBody : Instr → State → Cmd State
  | .crc8, s => crc8Command s
  | .build, s => buildCommand s
  | .parse, s => parseNotification s
  | .enc1, s => encodePixels Param.BPL1 8 packByte1 s
  | .enc4, s => encodePixels Param.BPL4 2 packByte4 s

theorem exec_eq_finish (i : Instr) (s : State) : exec i s = finish s (commandBody i s) := by
  cases i <;> rfl

theorem exec_of_ok {i : Instr} {s u : State} (h : commandBody i s = .ok u) : exec i s = .next (u.complete .ok) := by
  rw [exec_eq_finish, h, finish_ok]

theorem exec_of_error {i : Instr} {s : State} {e : ErrCode} (h : commandBody i s = .error (.error e)) :
    exec i s = .next (s.complete e) := by
  rw [exec_eq_finish, h, finish_raise]

theorem exec_of_uninit {i : Instr} {s : State} (h : commandBody i s = .error .uninit) : exec i s = .fault .uninit := by
  rw [exec_eq_finish, h, finish_uninit]

/-- Everything exec can do when it answers a next state. -/
theorem exec_next {i : Instr} {s t : State} (h : exec i s = .next t) :
    (∃ u, commandBody i s = .ok u ∧ t = u.complete .ok) ∨
      ∃ e, commandBody i s = .error (.error e) ∧ t = s.complete e := finish_next (exec_eq_finish i s ▸ h)

theorem raiseIf_error {bad : Prop} [Decidable bad] {e : ErrCode} {a : Abort} (h : raiseIf bad e = .error a) :
    a = .error e ∧ bad := by
  unfold raiseIf at h
  split at h
  · cases h; exact ⟨rfl, ‹_›⟩
  · cases h

theorem State.srcByte_error {s : State} {n : Nat} {a : Abort} (h : s.srcByte n = .error a) :
    a = .uninit ∧ s.src.read n = none := by
  unfold State.srcByte at h
  split at h
  · cases h
  · cases h; exact ⟨rfl, ‹_›⟩

theorem State.srcRun_error {s : State} {n x : Nat} {a : Abort} (h : s.srcRun n x = .error a) :
    a = .uninit ∧ ∃ i < n, s.src.read (x + i) = none := by
  unfold State.srcRun at h
  split at h
  · cases h
  · cases h; exact ⟨rfl, Memory.readRun_eq_none_iff.mp ‹_›⟩

theorem Cmd.bind_eq_error {α β : Type} {x : Cmd α} {f : α → Cmd β} {e : Abort} (h : (x >>= f) = .error e) :
    x = .error e ∨ ∃ a, x = .ok a ∧ f a = .error e := by
  cases x with
  | ok a => exact .inr ⟨a, rfl, h⟩
  | error e' => exact .inl (by cases h; rfl)

/-- No command raises E_OK: an error code it raises is an error. -/
theorem commandBody_error_ne_ok {i : Instr} {s : State} : commandBody i s ≠ .error (.error .ok) := by
  intro h
  cases i with
  | crc8 =>
    rcases Cmd.bind_eq_error h with h | ⟨_, -, h⟩
    · cases (raiseIf_error h).1
    rcases Cmd.bind_eq_error h with h | ⟨_, -, h⟩
    · cases (State.srcRun_error h).1
    cases h
  | build =>
    rcases Cmd.bind_eq_error h with h | ⟨_, -, h⟩
    · cases (raiseIf_error h).1
    rcases Cmd.bind_eq_error h with h | ⟨_, -, h⟩
    · cases (raiseIf_error h).1
    rcases Cmd.bind_eq_error h with h | ⟨_, -, h⟩
    · cases (raiseIf_error h).1
    rcases Cmd.bind_eq_error h with h | ⟨_, -, h⟩
    · cases (State.srcRun_error h).1
    cases h
  | parse =>
    rcases Cmd.bind_eq_error h with h | ⟨_, -, h⟩
    · cases (raiseIf_error h).1
    rcases Cmd.bind_eq_error h with h | ⟨_, -, h⟩
    · cases (raiseIf_error h).1
    rcases Cmd.bind_eq_error h with h | ⟨_, -, h⟩
    · cases (State.srcByte_error h).1
    rcases Cmd.bind_eq_error h with h | ⟨_, -, h⟩
    · cases (State.srcByte_error h).1
    rcases Cmd.bind_eq_error h with h | ⟨_, -, h⟩
    · cases (raiseIf_error h).1
    rcases Cmd.bind_eq_error h with h | ⟨_, -, h⟩
    · cases (raiseIf_error h).1
    rcases Cmd.bind_eq_error h with h | ⟨_, -, h⟩
    · cases (State.srcByte_error h).1
    rcases Cmd.bind_eq_error h with h | ⟨_, -, h⟩
    · cases (State.srcByte_error h).1
    rcases Cmd.bind_eq_error h with h | ⟨_, -, h⟩
    · cases (raiseIf_error h).1
    rcases Cmd.bind_eq_error h with h | ⟨_, -, h⟩
    · cases (State.srcByte_error h).1
    rcases Cmd.bind_eq_error h with h | ⟨_, -, h⟩
    · cases (State.srcByte_error h).1
    rcases Cmd.bind_eq_error h with h | ⟨_, -, h⟩
    · cases (State.srcRun_error h).1
    rcases Cmd.bind_eq_error h with h | ⟨_, -, h⟩
    · unfold trailerBytes at h
      split at h
      · rcases Cmd.bind_eq_error h with h | ⟨_, -, h⟩
        · cases (State.srcByte_error h).1
        rcases Cmd.bind_eq_error h with h | ⟨_, -, h⟩
        · cases (State.srcByte_error h).1
        cases h
      · cases h
    cases h
  | enc1 =>
    rcases Cmd.bind_eq_error h with h | ⟨_, -, h⟩
    · cases (raiseIf_error h).1
    rcases Cmd.bind_eq_error h with h | ⟨_, -, h⟩
    · cases (raiseIf_error h).1
    rcases Cmd.bind_eq_error h with h | ⟨_, -, h⟩
    · cases (State.srcRun_error h).1
    cases h
  | enc4 =>
    rcases Cmd.bind_eq_error h with h | ⟨_, -, h⟩
    · cases (raiseIf_error h).1
    rcases Cmd.bind_eq_error h with h | ⟨_, -, h⟩
    · cases (raiseIf_error h).1
    rcases Cmd.bind_eq_error h with h | ⟨_, -, h⟩
    · cases (State.srcRun_error h).1
    cases h

/-- A next state with E_OK is a completed pseudocode. -/
theorem exec_next_of_ok {i : Instr} {s t : State} (h : exec i s = .next t) (ht : t.err = .ok) :
    ∃ u, commandBody i s = .ok u ∧ t = u.complete .ok := by
  rcases exec_next h with h | ⟨e, he, rfl⟩
  · exact h
  · rw [State.complete_err] at ht
    exact absurd (ht ▸ he) commandBody_error_ne_ok

/-- A next state with another code is the state before with that code recorded (R209). -/
theorem exec_next_of_error {i : Instr} {s t : State} (h : exec i s = .next t) (ht : t.err ≠ .ok) :
    t = s.complete t.err := by
  rcases exec_next h with ⟨u, -, rfl⟩ | ⟨e, -, rfl⟩
  · exact absurd (State.complete_err u .ok) ht
  · rw [State.complete_err]

/-- The fields no command's pseudocode writes (R44, R57). -/
structure State.KeepsAllButResults (s u : State) : Prop where
  cfg : u.cfg = s.cfg
  seq : u.seq = s.seq
  done : u.done = s.done
  err : u.err = s.err
  ovr : u.ovr = s.ovr
  srcLen : u.srcLen = s.srcLen
  cmdId : u.cmdId = s.cmdId
  height : u.height = s.height
  src : u.src = s.src
  program : u.program = s.program
  turns : u.turns = s.turns
  transcript : u.transcript = s.transcript
  draws : u.draws = s.draws

theorem commandBody_frame {i : Instr} {s u : State} (h : commandBody i s = .ok u) : s.KeepsAllButResults u := by
  cases i with
  | crc8 => obtain ⟨_, -, -, -, rfl⟩ := crc8Command_ok h; constructor <;> rfl
  | build => obtain ⟨_, -, -, -, -, -, rfl⟩ := buildCommand_ok h; constructor <;> rfl
  | parse => obtain ⟨_, _, _, _, _, _, -, -, -, -, -, -, -, rfl⟩ := parseNotification_ok h; constructor <;> rfl
  | enc1 => obtain ⟨_, -, -, -, -, rfl⟩ := encodePixels_ok h; constructor <;> rfl
  | enc4 => obtain ⟨_, -, -, -, -, rfl⟩ := encodePixels_ok h; constructor <;> rfl

end Sys2Proof.Machine
end

