-- ==== Sys2Proof/Laws/Flags.lean ====
section
/-! SUPPORT. The fields of P_FLAGS and of the STATUS word. -/

namespace Sys2Proof.Machine

theorem parseFlags_trl (c f t : Bool) : (parseFlags c f t).getLsbD 0 = t := by
  cases c <;> cases f <;> cases t <;> rfl

theorem parseFlags_ftrOk (c f t : Bool) : (parseFlags c f t).getLsbD 1 = f := by
  cases c <;> cases f <;> cases t <;> rfl

theorem parseFlags_crcOk (c f t : Bool) : (parseFlags c f t).getLsbD 2 = c := by
  cases c <;> cases f <;> cases t <;> rfl

theorem State.statusWord_busy (s : State) : s.statusWord.getLsbD 0 = s.busy := by
  unfold State.statusWord
  generalize s.busy = b
  generalize s.done = d
  generalize s.ovr = o
  cases s.err <;> cases b <;> cases d <;> cases o <;> rfl

theorem State.statusWord_done (s : State) : s.statusWord.getLsbD 1 = s.done := by
  unfold State.statusWord
  generalize s.busy = b
  generalize s.done = d
  generalize s.ovr = o
  cases s.err <;> cases b <;> cases d <;> cases o <;> rfl

theorem State.statusWord_ovr (s : State) : s.statusWord.getLsbD 8 = s.ovr := by
  unfold State.statusWord
  generalize s.busy = b
  generalize s.done = d
  generalize s.ovr = o
  cases s.err <;> cases b <;> cases d <;> cases o <;> rfl

theorem State.statusWord_err (s : State) : s.statusWord.extractLsb' 4 4 = s.err.code := by
  unfold State.statusWord
  generalize s.busy = b
  generalize s.done = d
  generalize s.ovr = o
  cases s.err <;> cases b <;> cases d <;> cases o <;> rfl

theorem State.statusWord_low_reserved (s : State) : s.statusWord.extractLsb' 2 2 = 0 := by
  unfold State.statusWord
  generalize s.busy = b
  generalize s.done = d
  generalize s.ovr = o
  cases s.err <;> cases b <;> cases d <;> cases o <;> rfl

theorem State.statusWord_high_reserved (s : State) : s.statusWord.extractLsb' 9 23 = 0 := by
  unfold State.statusWord
  generalize s.busy = b
  generalize s.done = d
  generalize s.ovr = o
  cases s.err <;> cases b <;> cases d <;> cases o <;> rfl

end Sys2Proof.Machine
end

