-- ==== Sys2Proof/Laws/PerInstr.lean ====
section
/-! SUPPORT. What every command is as syntax, one lemma a constructor. -/

namespace Sys2Proof.Laws.Encoding

/-- A command is well formed, its word has MBZ zero and its own OP, and that word passes the check of R72. -/
def Statement (i : Instr) : Prop :=
  i.wf = true ∧ mbzField (encode i) = 0 ∧ opField (encode i) = i.opcode ∧ cmdWordWf (encode i) = true

theorem crc8 : Statement .crc8 := by unfold Statement; decide

theorem build : Statement .build := by unfold Statement; decide

theorem parse : Statement .parse := by unfold Statement; decide

theorem enc1 : Statement .enc1 := by unfold Statement; decide

theorem enc4 : Statement .enc4 := by unfold Statement; decide

end Sys2Proof.Laws.Encoding
end

