-- ==== Sys2Proof/Laws/Step.lean ====
section
/-! SUPPORT. What a host access, a turn, a step and a run can do. -/

namespace Sys2Proof.Machine

/-! ### The host port -/

theorem regAt_regNumber (r : RegName) : regAt (regNumber r) = some r := by cases r <;> rfl

theorem regAt_eq_some {n : Nat} {r : RegName} (h : regAt n = some r) : n = regNumber r := by
  unfold regAt at h
  split at h <;> cases h <;> rfl

theorem regAt_of_gt {n : Nat} (h : 12 < n) : regAt n = none := by
  unfold regAt
  split <;> first | rfl | omega

theorem State.unlessBusy_busy {s t : State} (h : s.busy = true) : s.unlessBusy t = s.setOvr true := if_pos h

theorem State.unlessBusy_idle {s t : State} (h : s.busy = false) : s.unlessBusy t = t := if_neg (by simp [h])

/-- Everything a register read can do: the transcript, and a draw counted if the value was drawn (R51, R236). -/
theorem State.readReg_cases (s : State) (n : Nat) :
    (∃ v, s.readReg n = s.observe (.reg n v)) ∨
      (s.busy = true ∧ s.readReg n = (s.observe (.reg n (Config.freeWord s.draws))).countDraw) := by
  unfold State.readReg
  split
  · exact .inl ⟨_, rfl⟩
  · split
    · rename_i h
      exact .inr ⟨by simp at h; exact h.1, rfl⟩
    · exact .inl ⟨_, rfl⟩

/-- Everything a register write can do (R51): nothing, OVR set or cleared, an issue, or one operand register. -/
theorem State.writeReg_cases (s : State) (n : Nat) (v : Word) :
    s.writeReg n v = s ∨
    (n = 0 ∧ v.getLsbD 8 = true ∧ s.writeReg n v = s.setOvr false) ∨
    (1 ≤ n ∧ n ≤ 4 ∧ s.busy = true ∧ s.writeReg n v = s.setOvr true) ∨
    (s.busy = false ∧ ((n = 1 ∧ s.writeReg n v = s.issue v) ∨ (n = 2 ∧ s.writeReg n v = s.setSrcLen v) ∨
      (n = 3 ∧ s.writeReg n v = s.setCmdId v) ∨ (n = 4 ∧ s.writeReg n v = s.setHeight v))) := by
  have key : ∀ t, s.unlessBusy t = (if s.busy then s.setOvr true else t) := fun _ => rfl
  unfold State.writeReg
  split
  case h_1 h =>
    have hn := regAt_eq_some h
    split
    · exact .inr (.inl ⟨hn, ‹_›, rfl⟩)
    · exact .inl rfl
  case h_2 h | h_3 h | h_4 h | h_5 h =>
    have hn := regAt_eq_some h
    simp only [regNumber] at hn
    cases hb : s.busy
    · exact .inr (.inr (.inr ⟨rfl, by simp [key, hb, hn]⟩))
    · exact .inr (.inr (.inl ⟨by omega, by omega, rfl, by simp [key, hb]⟩))
  all_goals exact .inl rfl

/-- Everything a host access can do when it answers a next state: it was of a legal width and in range, and is one of
the four accesses performed. -/
theorem State.hostAccess_next {s t : State} {a : HostAccess} (h : s.hostAccess a = .next t) :
    a.widthOk = true ∧ a.inRange s.cfg = true ∧ s.performAccess a = .next t := by
  unfold State.hostAccess at h
  split at h
  · cases h
  · split at h
    · cases h
    · exact ⟨by simpa using ‹¬ a.widthOk = false›, by simpa using ‹¬ a.inRange s.cfg = false›, h⟩

theorem State.hostAccess_of_wf {s : State} {a : HostAccess} (h : a.wf s.cfg = true) :
    s.hostAccess a = s.performAccess a := by
  simp only [HostAccess.wf, Bool.and_eq_true] at h
  simp [State.hostAccess, h.1, h.2]

/-- Everything a memory read by the host can do when it answers a next state (R52, R236). -/
theorem State.readMem_next {s t : State} {m : MemName} {a : Nat} (h : s.readMem m a = .next t) :
    (∃ b, t = s.observe (.mem m a b)) ∨
      (s.busy = true ∧ m = .dst ∧ t = (s.observe (.mem .dst a (Config.freeByte s.draws))).countDraw) := by
  have ret : ∀ {m'} {o : Option Byte}, s.returnByte m' a o = .next t → ∃ b, t = s.observe (.mem m' a b) := by
    intro m' o h
    cases o with
    | none => cases h
    | some b => exact ⟨b, by cases h; rfl⟩
  cases m with
  | src => exact .inl (ret h)
  | dst =>
    simp only [State.readMem] at h
    split at h
    · exact .inr ⟨‹_›, rfl, by cases h; rfl⟩
    · exact .inl (ret h)

theorem State.writeMem_cases (s : State) (m : MemName) (a : Nat) (b : Byte) :
    (m = .dst ∧ s.writeMem m a b = s) ∨
    (m = .src ∧ s.busy = true ∧ s.writeMem m a b = s.setOvr true) ∨
    (m = .src ∧ s.busy = false ∧ s.writeMem m a b = s.setSrcByte a b) := by
  cases m with
  | dst => exact .inl ⟨rfl, rfl⟩
  | src =>
    cases hb : s.busy
    · exact .inr (.inr ⟨rfl, rfl, State.unlessBusy_idle hb⟩)
    · exact .inr (.inl ⟨rfl, rfl, State.unlessBusy_busy hb⟩)

/-- Everything a host access can do to the state (R51, R52, R59): a read adds to the transcript and may count a draw; a
write sets or clears OVR, issues, writes one operand register or one SRC byte, or does nothing. -/
theorem State.performAccess_next {s t : State} {a : HostAccess} (h : s.performAccess a = .next t) :
    t = s ∨ (∃ o, t = s.observe o) ∨ (∃ o, s.busy = true ∧ t = (s.observe o).countDraw) ∨
    (∃ width v, a = .regWrite 0 width v ∧ v.getLsbD 8 = true ∧ t = s.setOvr false) ∨
    (s.busy = true ∧ t = s.setOvr true ∧
      ((∃ n width v, a = .regWrite n width v ∧ 1 ≤ n ∧ n ≤ 4) ∨ ∃ x width b, a = .memWrite .src x width b)) ∨
    (s.busy = false ∧ ((∃ width v, a = .regWrite 1 width v ∧ t = s.issue v) ∨
      (∃ width v, a = .regWrite 2 width v ∧ t = s.setSrcLen v) ∨
      (∃ width v, a = .regWrite 3 width v ∧ t = s.setCmdId v) ∨
      (∃ width v, a = .regWrite 4 width v ∧ t = s.setHeight v) ∨
      ∃ x width b, a = .memWrite .src x width b ∧ t = s.setSrcByte x b)) := by
  cases a with
  | regRead n width =>
    simp only [State.performAccess, Host.Outcome.next.injEq] at h
    rcases s.readReg_cases n with ⟨v, hv⟩ | ⟨hb, hv⟩
    · exact .inr (.inl ⟨_, by rw [← h, hv]⟩)
    · exact .inr (.inr (.inl ⟨_, hb, by rw [← h, hv]⟩))
  | regWrite n width v =>
    simp only [State.performAccess, Host.Outcome.next.injEq] at h
    subst h
    rcases s.writeReg_cases n v with hv | ⟨rfl, h8, hv⟩ | ⟨h1, h4, hb, hv⟩ | ⟨hb, hv⟩
    · exact .inl hv
    · exact .inr (.inr (.inr (.inl ⟨width, v, rfl, h8, hv⟩)))
    · exact .inr (.inr (.inr (.inr (.inl ⟨hb, hv, .inl ⟨n, width, v, rfl, h1, h4⟩⟩))))
    · refine .inr (.inr (.inr (.inr (.inr ⟨hb, ?_⟩))))
      rcases hv with ⟨rfl, hv⟩ | ⟨rfl, hv⟩ | ⟨rfl, hv⟩ | ⟨rfl, hv⟩
      · exact .inl ⟨width, v, rfl, hv⟩
      · exact .inr (.inl ⟨width, v, rfl, hv⟩)
      · exact .inr (.inr (.inl ⟨width, v, rfl, hv⟩))
      · exact .inr (.inr (.inr (.inl ⟨width, v, rfl, hv⟩)))
  | memRead m x width =>
    rcases State.readMem_next h with ⟨b, rfl⟩ | ⟨hb, -, rfl⟩
    · exact .inr (.inl ⟨_, rfl⟩)
    · exact .inr (.inr (.inl ⟨_, hb, rfl⟩))
  | memWrite m x width b =>
    simp only [State.performAccess, Host.Outcome.next.injEq] at h
    subst h
    rcases s.writeMem_cases m x b with ⟨-, hv⟩ | ⟨rfl, hb, hv⟩ | ⟨rfl, hb, hv⟩
    · exact .inl hv
    · exact .inr (.inr (.inr (.inr (.inl ⟨hb, hv, .inr ⟨x, width, b, rfl⟩⟩))))
    · exact .inr (.inr (.inr (.inr (.inr ⟨hb, .inr (.inr (.inr (.inr ⟨x, width, b, rfl, hv⟩)))⟩))))

/-- The fields no host access writes but the transcript, the draws, OVR, an issue and the operands (R51, R52). -/
structure State.KeepsAllButHostFields (s t : State) : Prop where
  cfg : t.cfg = s.cfg
  err : t.err = s.err
  crc : t.crc = s.crc
  outLen : t.outLen = s.outLen
  outHeight : t.outHeight = s.outHeight
  pId : t.pId = s.pId
  pLen : t.pLen = s.pLen
  pOff : t.pOff = s.pOff
  pRsvd : t.pRsvd = s.pRsvd
  pFlags : t.pFlags = s.pFlags
  crcWork : t.crcWork = s.crcWork
  dst : t.dst = s.dst
  program : t.program = s.program
  turns : t.turns = s.turns

theorem State.performAccess_frame {s t : State} {a : HostAccess} (h : s.performAccess a = .next t) :
    s.KeepsAllButHostFields t := by
  rcases State.performAccess_next h with rfl | ⟨_, rfl⟩ | ⟨_, -, rfl⟩ | ⟨_, _, -, -, rfl⟩ | ⟨-, rfl, -⟩ |
      ⟨-, ⟨_, _, -, rfl⟩ | ⟨_, _, -, rfl⟩ | ⟨_, _, -, rfl⟩ | ⟨_, _, -, rfl⟩ | ⟨_, _, _, -, rfl⟩⟩ <;>
    constructor <;> simp

/-- A read of STATUS, the polled register, is never drawn (R234). -/
theorem State.readReg_status (s : State) : s.readReg 0 = s.observe (.reg 0 s.statusWord) := by
  simp [State.readReg, regAt, isResultReg, State.regValue]

/-- The numbers from 5 up ignore a write, busy or not (R21, R35, R59). -/
theorem State.writeReg_of_ge {s : State} {n : Nat} {v : Word} (h : 5 ≤ n) : s.writeReg n v = s := by
  rcases s.writeReg_cases n v with h | ⟨rfl, -⟩ | ⟨-, h, -⟩ | ⟨-, ⟨rfl, -⟩ | ⟨rfl, -⟩ | ⟨rfl, -⟩ | ⟨rfl, -⟩⟩ <;>
    first | assumption | omega

/-! ### Turns and steps -/

theorem blockTurn_idle {s : State} (h : s.seq = .idle) : blockTurn s = .next s := by
  rw [blockTurn, h]

theorem blockTurn_pending {s : State} {w : Word} (h : s.seq = .pending w) : blockTurn s = completeWord w s := by
  rw [blockTurn, h]

theorem completeWord_command {w : Word} {i : Instr} {s : State} (h : decode w = .command i) :
    completeWord w s = exec i s := by
  rw [completeWord, h]

theorem completeWord_illegal {w : Word} {why : IllegalWord} {s : State} (h : decode w = .illegal why) :
    completeWord w s = .next (s.complete .illegal) := by
  rw [completeWord, h]; rfl

/-- Everything a completion can do when it answers a next state. -/
theorem completeWord_next {w : Word} {s t : State} (h : completeWord w s = .next t) :
    (∃ i u, decode w = .command i ∧ commandBody i s = .ok u ∧ t = u.complete .ok) ∨ ∃ e, t = s.complete e := by
  unfold completeWord at h
  split at h
  · rename_i i hd
    rcases exec_next h with ⟨u, hu, rfl⟩ | ⟨e, -, rfl⟩
    · exact .inl ⟨i, u, hd, hu, rfl⟩
    · exact .inr ⟨e, rfl⟩
  · exact .inr ⟨.illegal, by cases h; rfl⟩

@[simp] theorem State.endTurn_mem_busy (s : State) : s.endTurn.busy = s.busy := rfl

/-- A step when the block has the turn. -/
theorem step_block {s : State} (h : s.mover = .block) : step s = blockTurn s.endTurn := by
  rw [step, h]

/-- A step when the host has the turn. -/
theorem step_host {s : State} (h : s.mover = .host) : step s = hostTurn s.endTurn := by
  rw [step, h]

/-- A step of the host with an access at the head of its program. -/
theorem step_access {s : State} {a : HostAccess} (h : s.mover = .host) (hp : s.program.head? = some (.access a)) :
    step s = s.endTurn.endHostOp.hostAccess a := by
  rw [step_host h, hostTurn]
  obtain ⟨rest, hr⟩ : ∃ rest, s.program = .access a :: rest := by
    cases hs : s.program with
    | nil => rw [hs] at hp; cases hp
    | cons x rest => rw [hs] at hp; cases hp; exact ⟨rest, rfl⟩
  simp only [State.endTurn_program, hr]
  rfl

/-- A step of the host with a legal access at the head of its program. -/
theorem step_access_of_wf {s : State} {a : HostAccess} (h : s.mover = .host) (hp : s.program.head? = some (.access a))
    (hw : a.wf s.cfg = true) : step s = s.endTurn.endHostOp.performAccess a := by
  rw [step_access h hp, State.hostAccess_of_wf (by simpa using hw)]

/-- A step of the host with a register read in range. -/
theorem step_regRead {s : State} {n : Nat} (h : s.mover = .host) (hn : n < 16)
    (hp : s.program.head? = some (.access (.regRead n 4))) : step s = .next (s.endTurn.endHostOp.readReg n) := by
  rw [step_access_of_wf h hp (by simp [HostAccess.wf, HostAccess.widthOk, HostAccess.inRange, hn])]
  rfl

/-- A step of the host with a register write in range. -/
theorem step_regWrite {s : State} {n : Nat} {v : Word} (h : s.mover = .host) (hn : n < 16)
    (hp : s.program.head? = some (.access (.regWrite n 4 v))) :
    step s = .next (s.endTurn.endHostOp.writeReg n v) := by
  rw [step_access_of_wf h hp (by simp [HostAccess.wf, HostAccess.widthOk, HostAccess.inRange, hn])]
  rfl

/-- A step of the host with a memory read in range. -/
theorem step_memRead {s : State} {m : MemName} {a : Nat} (h : s.mover = .host) (ha : a < s.cfg.size m)
    (hp : s.program.head? = some (.access (.memRead m a 1))) : step s = s.endTurn.endHostOp.readMem m a := by
  rw [step_access_of_wf h hp (by simp [HostAccess.wf, HostAccess.widthOk, HostAccess.inRange, ha])]
  rfl

/-- A step of the host with a memory write in range. -/
theorem step_memWrite {s : State} {m : MemName} {a : Nat} {b : Byte} (h : s.mover = .host) (ha : a < s.cfg.size m)
    (hp : s.program.head? = some (.access (.memWrite m a 1 b))) :
    step s = .next (s.endTurn.endHostOp.writeMem m a b) := by
  rw [step_access_of_wf h hp (by simp [HostAccess.wf, HostAccess.widthOk, HostAccess.inRange, ha])]
  rfl

/-- Everything a step can do when it answers a next state, by who moves: the block is idle or completes a word; the host
has nothing left, makes an access, polls, or resets. -/
theorem step_next {s t : State} (h : step s = .next t) :
    (s.mover = .block ∧ s.seq = .idle ∧ t = s.endTurn) ∨
    (∃ w, s.mover = .block ∧ s.seq = .pending w ∧ completeWord w s.endTurn = .next t) ∨
    (s.mover = .host ∧ s.program = [] ∧ t = s.endTurn) ∨
    (∃ a rest, s.mover = .host ∧ s.program = .access a :: rest ∧ s.endTurn.endHostOp.hostAccess a = .next t) ∨
    (∃ rest, s.mover = .host ∧ s.program = .wait :: rest ∧
      t = if s.statusWord.getLsbD 0 then s.endTurn.readReg 0 else (s.endTurn.readReg 0).endHostOp) ∨
    (∃ rest, s.mover = .host ∧ s.program = .reset :: rest ∧ t = s.endTurn.endHostOp.hostReset) := by
  cases hm : s.mover with
  | block =>
    rw [step_block hm] at h
    cases hs : s.seq with
    | idle =>
      rw [blockTurn_idle (by simpa using hs)] at h
      exact .inl ⟨rfl, rfl, by cases h; rfl⟩
    | pending w =>
      rw [blockTurn_pending (by simpa using hs)] at h
      exact .inr (.inl ⟨w, rfl, rfl, h⟩)
  | host =>
    rw [step_host hm, hostTurn] at h
    simp only [State.endTurn_program] at h
    refine .inr (.inr ?_)
    cases hp : s.program with
    | nil =>
      rw [hp] at h
      exact .inl ⟨rfl, rfl, by cases h; rfl⟩
    | cons op rest =>
      rw [hp] at h
      cases op with
      | access a => exact .inr (.inl ⟨a, rest, rfl, rfl, h⟩)
      | wait => exact .inr (.inr (.inl ⟨rest, rfl, rfl, by cases h; rfl⟩))
      | reset => exact .inr (.inr (.inr ⟨rest, rfl, rfl, by cases h; rfl⟩))

/-! ### Runs -/

theorem core_run_zero (s : State) : Sys2Proof.core.run 0 s = .next s := rfl

theorem run_of_next (M : Host.Core) {n : Nat} {s t : M.State} (h : M.step s = .next t) :
    M.run (n + 1) s = M.run n t := by
  simp only [Host.Core.run, h]

theorem run_of_fault (M : Host.Core) {n : Nat} {s : M.State} {r : M.Fault} (h : M.step s = .fault r) :
    M.run (n + 1) s = .fault r := by
  simp only [Host.Core.run, h]

theorem core_run_of_next {n : Nat} {s t : State} (h : step s = .next t) :
    Sys2Proof.core.run (n + 1) s = Sys2Proof.core.run n t := run_of_next Sys2Proof.core h

theorem core_run_of_fault {n : Nat} {s : State} {r : Fault} (h : step s = .fault r) :
    Sys2Proof.core.run (n + 1) s = .fault r := run_of_fault Sys2Proof.core h

end Sys2Proof.Machine
end

