-- ==== Sys2Proof/Tests/Slice0.lean ====
section
/-! SUPPORT. The model's own tests. Every expected value comes from spec/ (the opcode table, the worked examples and the
vectors of 95_test_vectors.md, named in each docstring), and every statement with hypotheses has a witness here, under
its own name. -/

namespace Sys2Proof.Tests

open Sys2Proof.Machine

/-! ### Small states -/

/-- The generator of the candidate table of 40_crc.md section 3, which is not the source's (R101): tests only. -/
def candidateEntry (i : Byte) : Byte :=
  (List.range 8).foldl (fun t _ => if t.getLsbD 7 then t <<< 1 ^^^ 0x07 else t <<< 1) i

/-- Memories of the sizes D4 recommends, the candidate table. -/
def cfg : Config := { srcSize := 65543, dstSize := 65543, crc8Table := Config.tableOf candidateEntry }

/-- Memories of eight bytes. -/
def tinyCfg : Config := { cfg with srcSize := 8, dstSize := 8 }

def idle : State := State.resetWith cfg

def tiny : State := State.resetWith tinyCfg

/-- `bs` in SRC from address 0 up, SRC_LEN their number. -/
def load (bs : List Byte) (s : State) : State :=
  { s with src := Memory.cellsAt 0 bs, srcLen := BitVec.ofNat 32 bs.length }

/-- A raster in SRC, its rows in HEIGHT. -/
def raster (rows : Nat) (px : List Byte) (s : State) : State :=
  { s with src := Memory.cellsAt 0 px, height := BitVec.ofNat 16 rows }

/-- SRC_LEN alone. -/
def len (n : Nat) (s : State) : State := { s with srcLen := BitVec.ofNat 32 n }

/-- The host's program. -/
def hosts (ops : List HostOp) (s : State) : State := { s with program := ops }

/-- The host's next access. -/
def access (a : HostAccess) (s : State) : State := hosts [.access a] s

/-- In the busy window, the host has the turn. -/
def busy : State := { idle.issue 0x00000001 with turns := [.host] }

/-- The same with the last SRC byte written. -/
def busyWithByte : State := { busy with src := [(65542, 0x5A)] }

/-- What a field holds after a step, `none` if there is no next state. -/
def after {α : Type} (o : Host.Outcome State Fault Refusal) (f : State → α) : Option α :=
  match o with
  | .next t => some (f t)
  | .fault _ => none
  | .refused _ => none

/-- Row 0 of raster R1 (95_test_vectors.md section 2.4). -/
def rowR1 : List Byte := [0, 128, 127, 0, 255, 255, 255, 255, 0, 255, 255, 255, 255, 255, 255, 0] ++ List.replicate 368 255

/-! ### Decoding (R70 to R72, opcode_table.json) -/

/-- R71: OP 0x1, MBZ zero. -/
theorem test_decode_crc8 : decode 0b00000000000000000000000000000001 = .command .crc8 := by decide

/-- R71: OP 0x2, MBZ zero. -/
theorem test_decode_build : decode 0b00000000000000000000000000000010 = .command .build := by decide

/-- R71: OP 0x3, MBZ zero. -/
theorem test_decode_parse : decode 0b00000000000000000000000000000011 = .command .parse := by decide

/-- R71: OP 0x4, MBZ zero. -/
theorem test_decode_enc1 : decode 0b00000000000000000000000000000100 = .command .enc1 := by decide

/-- R71: OP 0x5, MBZ zero. -/
theorem test_decode_enc4 : decode 0b00000000000000000000000000000101 = .command .enc4 := by decide

/-- 95_test_vectors.md section 2.5: the sixteen illegal words, the first by OP 0, ten by OP above 5, five by MBZ. -/
theorem test_decode_illegal : ([0x00000000, 0x00000006, 0x00000007, 0x00000008, 0x00000009, 0x0000000A, 0x0000000B,
      0x0000000C, 0x0000000D, 0x0000000E, 0x0000000F, 0x00000010, 0x00000011, 0x00000105, 0x80000001,
      0xFFFFFFFF] : List Word).map decode =
    List.replicate 11 (.illegal .op) ++ List.replicate 5 (.illegal .mbz) := by decide

/-- opcode_table.json: the five match words, in order. -/
theorem test_encode : [Instr.crc8, .build, .parse, .enc1, .enc4].map encode =
    [0x00000001, 0x00000002, 0x00000003, 0x00000004, 0x00000005] := by decide

/-- R71 and R72 through the host's numbering. -/
theorem test_decodeTableWord : [1, 2, 3, 4, 5, 0, 6, 0x11].map (decodeTableWord 32) =
    [some .crc8, some .build, some .parse, some .enc1, some .enc4, none, none, none] := by decide

/-! ### WellFormed: one ill-formed term a check -/

theorem test_cmdWord_mbz_refused : cmdWordWf 0x00000011 = false := by decide

theorem test_cmdWord_op_zero_refused : cmdWordWf 0x00000000 = false := by decide

theorem test_cmdWord_op_above_refused : cmdWordWf 0x00000006 = false := by decide

theorem test_reg_width_refused : (HostAccess.regRead 0 1).wf cfg = false ∧ (HostAccess.regWrite 2 2 0).wf cfg = false := by
  decide

theorem test_mem_width_refused : (HostAccess.memRead .src 0 4).wf cfg = false ∧
    (HostAccess.memWrite .src 0 2 0).wf cfg = false := by decide

theorem test_reg_number_refused : (HostAccess.regRead 16 4).wf cfg = false ∧ (HostAccess.regWrite 16 4 0).wf cfg = false := by
  decide

theorem test_address_refused : (HostAccess.memRead .dst 8 1).wf tinyCfg = false ∧
    (HostAccess.memWrite .src 8 1 0).wf tinyCfg = false ∧ (HostAccess.memWrite .src 7 1 0).wf tinyCfg = true := by decide

theorem test_hostOp_refused : (HostOp.access (.regRead 16 4)).wf cfg = false ∧ HostOp.wait.wf cfg = true := by decide

/-! ### Meanings, one step each -/

/-- C16 and W1a: crc8 of 01 02 under the candidate table is 0x1B. -/
theorem test_crc8_two_bytes : after (exec .crc8 (load [0x01, 0x02] idle)) (fun t => (t.crc, t.err, t.done)) =
    some (0x1B, .ok, true) := by decide +kernel

/-- C22: the nine ASCII bytes "123456789", candidate table. -/
theorem test_crc8_check_value :
    after (exec .crc8 (load [0x31, 0x32, 0x33, 0x34, 0x35, 0x36, 0x37, 0x38, 0x39] idle)) State.crc = some 0xF4 := by
  decide +kernel

/-- B3: CMD_ID 0xA2, payload 64, candidate table. -/
theorem test_build_frame : after (exec .build (load [0x64] (idle.setCmdId 0xA2))) (fun t => (t.dst, t.outLen, t.crc)) =
    some (Memory.cellsAt 0 [0x22, 0x21, 0xA2, 0x00, 0x01, 0x00, 0x64, 0x3B, 0xFF], 9, 0x3B) := by decide +kernel

/-- B8: 65536 payload bytes, E_LEN, STATUS 0x52, nothing written. -/
theorem test_build_long : after (exec .build (len 65536 idle)) (fun t => (t.statusWord, t.dst, t.outLen)) =
    some (0x00000052, [], 0) := by decide +kernel

/-- PA13 to PA17: P_ID, P_RSVD and P_FLAGS of five frames with an empty payload. -/
theorem test_parse_flags : ([[0x22, 0x21, 0xA1, 0x00, 0x00, 0x00, 0x00, 0xFF], [0x22, 0x21, 0xA1, 0x00, 0x00, 0x00, 0x00, 0xFE],
      [0x22, 0x21, 0xA1, 0x00, 0x00, 0x00, 0x01, 0xFF], [0x22, 0x21, 0xA1, 0x00, 0x00, 0x00, 0x01, 0xFE],
      [0x22, 0x21, 0xB1, 0x5A, 0x00, 0x00, 0x00, 0xFF]] : List (List Byte)).map
      (fun f => after (exec .parse (load f idle)) (fun t => (t.pId, t.pRsvd, t.pFlags, t.statusWord))) =
    [some (0xA1, 0x00, 7, 0x2), some (0xA1, 0x00, 5, 0x2), some (0xA1, 0x00, 3, 0x2), some (0xA1, 0x00, 1, 0x2),
      some (0xB1, 0x5A, 7, 0x2)] := by decide +kernel

/-- PA2, PA4, PA8, PA10 and PA12: STATUS of five malformed frames. -/
theorem test_parse_malformed : ([[0x22], [0x21, 0x22], [0x22, 0x21, 0xA1, 0x00, 0x00],
      [0x22, 0x21, 0xA1, 0x00, 0x02, 0x00, 0x01], [0x22, 0x21, 0xA1, 0x00, 0x00, 0x01]] : List (List Byte)).map
      (fun f => after (exec .parse (load f idle)) State.statusWord) =
    [some 0x22, some 0x32, some 0x42, some 0x42, some 0x42] := by decide +kernel

/-- E18: the first two packed bytes of raster R1 in 1-bit mode. -/
theorem test_enc1_pattern : packLines 8 packByte1 2 rowR1 = [0x0D, 0x81] := by decide +kernel

/-- E9: ENC1 with HEIGHT 0 reads no SRC byte, though all are undef, and writes 0x00; OUT_HEIGHT 86. -/
theorem test_enc1_empty : after (exec .enc1 idle) (fun t => (t.dst.readRun 3 0, t.outHeight, t.err)) =
    some (some [0x00, 0x00, 0x00], 86, .ok) := by decide +kernel

/-- E19: the first eight packed bytes of raster R1 in 4-bit mode. -/
theorem test_enc4_pattern : packLines 2 packByte4 8 rowR1 = [0xF7, 0x8F, 0x00, 0x00, 0xF0, 0x00, 0x00, 0x0F] := by
  decide +kernel

/-- E16: ENC4 into a DST of eight bytes, E_RANGE, STATUS 0x62. -/
theorem test_enc4_range : after (exec .enc4 tiny) (fun t => (t.statusWord, t.dst, t.outHeight)) =
    some (0x00000062, [], 0) := by decide +kernel

/-- The table of section 2.4: dark and level4 of twelve gray values. -/
theorem test_gray_values : ([0, 1, 15, 16, 17, 127, 128, 129, 239, 240, 254, 255] : List Byte).map
      (fun g => (dark g, level4 g)) =
    [(true, 15), (true, 15), (true, 15), (true, 14), (true, 14), (true, 8), (false, 7), (false, 7), (false, 1), (false, 0),
      (false, 0), (false, 0)] := by decide +kernel

/-- P5, case B: STATUS is 0x112 after an illegal word and a dropped command (R22). -/
theorem test_status_ovr_illegal : ((idle.setOvr true).complete .illegal).statusWord = 0x00000112 := by decide +kernel

/-- B12 and E17: reserved bits of CMD_ID and HEIGHT are not stored (R25, R26). -/
theorem test_used_bits : (idle.writeReg 3 0xFFFFFF5A).cmdId = 0x5A ∧ (idle.writeReg 4 0x00010001).height = 0x0001 := by
  decide

/-- R21: numbers and names agree. -/
theorem test_regAt : (List.range 16).map regAt = [some .status, some .cmd, some .srcLen, some .cmdId, some .height, some .crc,
    some .outLen, some .outHeight, some .pId, some .pLen, some .pOff, some .pRsvd, some .pFlags, none, none, none] := by
  decide

/-- R75: `run CRC8` is a write of 0x00000001 to register 1 and the polling loop; `clrovr` writes 0x100 to register 0. -/
theorem test_host_program : HostProgram.run .crc8 = [.access (.regWrite 1 4 0x00000001), .wait] ∧
    HostProgram.clrovr = .access (.regWrite 0 4 0x00000100) ∧
    HostProgram.wsrcs 3 [0xAA, 0xBB] = [.access (.memWrite .src 3 1 0xAA), .access (.memWrite .src 4 1 0xBB)] := by decide

/-- Log 10: each of the five words runs as the first step from reset. -/
theorem test_fetch_runs_first (i : Instr) : step (State.reset.withFetchWord 32 (encode i).toNat) =
    exec i (State.reset.withFetchWord 32 (encode i).toNat) := by cases i <;> rfl

/-- Log 10: from reset with nothing placed there is no command to complete: the first step changes nothing. -/
theorem test_reset_is_quiet : step State.reset = .next State.reset := rfl

/-! ### Witnesses: steps, words, decoding -/

/-- The block has the turn by its own right, and by a listed one. -/
theorem witness_StepRunsDecodedCommand :
    ((idle.issue 0x1).turns = [] ∧ (idle.issue 0x1).seq = .pending 0x1 ∧ decode 0x1 = .command .crc8 ∧
      Instr.crc8.wf = true) ∧
    (({ idle.issue 0x5 with turns := [.block, .host] } : State).turns.head? = some .block ∧
      (idle.issue 0x5).seq = .pending 0x5 ∧ decode 0x5 = .command .enc4 ∧ Instr.enc4.wf = true) := by decide

theorem witness_DecodeEncodeAgree : Instr.enc4.wf = true ∧ decode 0x00000005 = .command .enc4 := by decide

/-- MBZ alone, OP 0 alone, OP 6 and OP 15. -/
theorem witness_IllegalWordCompletesIllegal :
    ((0x00000011 : Word) >>> 4 ≠ 0 ∧ (0x00000000 : Word) &&& 0xF = 0 ∧ 6 ≤ ((0x00000006 : Word) &&& 0xF).toNat ∧
      6 ≤ ((0x0000000F : Word) &&& 0xF).toNat) ∧
    (idle.issue 0x6).turns = [] ∧ (idle.issue 0x6).seq = .pending 0x6 := by decide

/-! ### Witnesses: CRC8 and the errors -/

/-- Two bytes, no byte, and a full SRC. -/
theorem witness_Crc8Completes : ∀ bs ∈ ([[0x01, 0x02], [], [1, 2, 3, 4, 5, 6, 7, 8]] : List (List Byte)),
    bs.length = (load bs tiny).srcLen.toNat ∧ (load bs tiny).srcLen.toNat ≤ (load bs tiny).cfg.srcSize ∧
      (load bs tiny).src.holds 0 bs := by
  intro bs h
  refine ⟨?_, ?_, Memory.cellsAt_holds 0 bs⟩ <;>
    (simp only [List.mem_cons, List.not_mem_nil, or_false] at h; rcases h with rfl | rfl | rfl <;> decide)

/-- The first length and the first height out of range, in each clause. -/
theorem witness_RangeErrors : (len 9 tiny).srcLen.toNat > (len 9 tiny).cfg.srcSize ∧
    ((len 65535 tiny).srcLen.toNat ≤ 65535 ∧ (len 65535 tiny).srcLen.toNat > (len 65535 tiny).cfg.srcSize) ∧
    ((len 1 tiny).srcLen.toNat ≤ (len 1 tiny).cfg.srcSize ∧ 8 + (len 1 tiny).srcLen.toNat > (len 1 tiny).cfg.dstSize) ∧
    384 * (raster 1 [] tiny).height.toNat > (raster 1 [] tiny).cfg.srcSize ∧
    48 * max tiny.height.toNat 86 > tiny.cfg.dstSize ∧ 192 * max tiny.height.toNat 86 > tiny.cfg.dstSize := by decide

theorem witness_BuildRefusesLongPayload :
    (len 65536 idle).srcLen.toNat > 65535 ∧ (len 0xFFFFFFFF idle).srcLen.toNat > 65535 := by decide

/-- PA1 and PA2: no byte, one byte. -/
theorem witness_ParseShort : ∀ n ∈ [0, 1], (len n idle).srcLen.toNat ≤ (len n idle).cfg.srcSize ∧
    (len n idle).srcLen.toNat < 2 := by decide

/-- PA4 and PA5: each header byte wrong. -/
theorem witness_ParseHeaderMismatch : ∀ b ∈ ([(0x21, 0x22), (0x22, 0x20), (0x23, 0x21)] : List (Byte × Byte)),
    (load [b.1, b.2] idle).srcLen.toNat ≤ (load [b.1, b.2] idle).cfg.srcSize ∧ 2 ≤ (load [b.1, b.2] idle).srcLen.toNat ∧
      (load [b.1, b.2] idle).src.read 0 = some b.1 ∧ (load [b.1, b.2] idle).src.read 1 = some b.2 ∧
      (b.1 ≠ 0x22 ∨ b.2 ≠ 0x21) := by
  intro b h
  simp only [List.mem_cons, List.not_mem_nil, or_false] at h
  rcases h with rfl | rfl | rfl <;> decide

/-- PA7 and PA8 for the first clause, PA10 and PA12 for the second. -/
theorem witness_ParseTruncated :
    (∀ n ∈ [2, 5], let s := len n (load [0x22, 0x21, 0xA1, 0x00, 0x00, 0x00] idle);
      s.srcLen.toNat ≤ s.cfg.srcSize ∧ 2 ≤ s.srcLen.toNat ∧ s.src.read 0 = some 0x22 ∧ s.src.read 1 = some 0x21 ∧
        s.srcLen.toNat < 6) ∧
    (let s := load [0x22, 0x21, 0xA1, 0x00, 0x02, 0x00, 0x01] idle;
      s.src.read 0 = some 0x22 ∧ s.src.read 1 = some 0x21 ∧ 6 ≤ s.srcLen.toNat ∧ s.src.read 4 = some 0x02 ∧
        s.src.read 5 = some 0x00 ∧ s.srcLen.toNat < 6 + ((0x02 : Byte).toNat + 256 * (0x00 : Byte).toNat)) ∧
    (let s := load [0x22, 0x21, 0xA1, 0x00, 0x00, 0x01] idle;
      s.src.read 0 = some 0x22 ∧ s.src.read 1 = some 0x21 ∧ 6 ≤ s.srcLen.toNat ∧ s.src.read 4 = some 0x00 ∧
        s.src.read 5 = some 0x01 ∧ s.srcLen.toNat < 6 + ((0x00 : Byte).toNat + 256 * (0x01 : Byte).toNat)) := by
  decide

/-- One undef byte for each clause: CRC8 and BUILD at the last byte, the encoders at the last pixel of a row, PARSE at a
header byte (PA24), at a length byte, in the payload (PA25) and at the footer. -/
theorem witness_UndefinedBytesFault :
    (∃ i, (len 65535 idle).srcLen.toNat ≤ (len 65535 idle).cfg.srcSize ∧ 8 + (len 65535 idle).srcLen.toNat ≤ (len 65535 idle).cfg.dstSize ∧
      i < (len 65535 idle).srcLen.toNat ∧ (len 65535 idle).src.read i = none ∧ (len 65535 idle).srcLen.toNat ≤ 65535) ∧
    (∃ i, 384 * (raster 1 [] idle).height.toNat ≤ (raster 1 [] idle).cfg.srcSize ∧
      192 * max (raster 1 [] idle).height.toNat 86 ≤ (raster 1 [] idle).cfg.dstSize ∧
      i < 384 * (raster 1 [] idle).height.toNat ∧ (raster 1 [] idle).src.read i = none) ∧
    (let s := len 2 (load [0x21] idle);
      s.srcLen.toNat ≤ s.cfg.srcSize ∧ 2 ≤ s.srcLen.toNat ∧ s.src.read 1 = none) ∧
    (let s := len 6 (load [0x22, 0x21, 0xA1, 0x00, 0x00] idle);
      6 ≤ s.srcLen.toNat ∧ s.src.read 0 = some 0x22 ∧ s.src.read 1 = some 0x21 ∧ s.src.read 5 = none) ∧
    (let s := len 9 (load [0x22, 0x21, 0xA1, 0x00, 0x01, 0x00] idle);
      s.src.read 4 = some 0x01 ∧ s.src.read 5 = some 0x00 ∧ 6 + ((0x01 : Byte).toNat + 256 * (0x00 : Byte).toNat) ≤ s.srcLen.toNat ∧
        s.src.read 6 = none ∧ 6 < 6 + ((0x01 : Byte).toNat + 256 * (0x00 : Byte).toNat)) ∧
    (let s := len 8 (load [0x22, 0x21, 0xA1, 0x00, 0x00, 0x00, 0x00] idle);
      s.src.read 4 = some 0x00 ∧ s.src.read 5 = some 0x00 ∧ s.src.read 7 = none ∧
        7 < 8 + ((0x00 : Byte).toNat + 256 * (0x00 : Byte).toNat) ∧
        8 + ((0x00 : Byte).toNat + 256 * (0x00 : Byte).toNat) ≤ s.srcLen.toNat) := by
  refine ⟨⟨65534, ?_⟩, ⟨383, ?_⟩, ?_⟩ <;> decide

/-! ### Witnesses: the frame codec -/

/-- B1 (no payload) and B7 (the longest payload). -/
theorem witness_BuildWritesFrame : ∀ n ∈ [0, 65535], let p := List.replicate n (0x00 : Byte)
    p.length = (load p idle).srcLen.toNat ∧ p.length ≤ 65535 ∧ p.length ≤ (load p idle).cfg.srcSize ∧
      8 + p.length ≤ (load p idle).cfg.dstSize ∧ (load p idle).src.holds 0 p := by
  intro n h p
  have hp : p.length = n := List.length_replicate
  refine ⟨?_, ?_, ?_, ?_, Memory.cellsAt_holds 0 p⟩ <;> simp only [load, hp] <;>
    (simp only [List.mem_cons, List.not_mem_nil, or_false] at h; rcases h with rfl | rfl <;> decide)

/-- The same payload under two ids. -/
theorem witness_BuildCrcIgnoresId : let s₁ := load [0x64] (idle.setCmdId 0xA2);
    let s₂ := load [0x64] (idle.setCmdId 0x00);
    s₁.cfg.crc8Table = s₂.cfg.crc8Table ∧ s₁.srcLen = s₂.srcLen ∧ (∀ a < s₁.srcLen.toNat, s₁.src.read a = s₂.src.read a) ∧
      (∃ t, exec .build s₁ = .next t ∧ t.err = .ok) ∧ ∃ t, exec .build s₂ = .next t ∧ t.err = .ok :=
  ⟨rfl, rfl, fun _ _ => rfl, ⟨_, rfl, rfl⟩, ⟨_, rfl, rfl⟩⟩

/-- PA9 (no trailer) and PA16 (a trailer with both bytes wrong). -/
theorem witness_ParseReportsFrame :
    (let s := load [0x22, 0x21, 0xA1, 0x00, 0x00, 0x00] idle;
      s.srcLen.toNat ≤ s.cfg.srcSize ∧ ([] : List Byte).length = (0x00 : Byte).toNat + 256 * (0x00 : Byte).toNat ∧
        6 + ([] : List Byte).length ≤ s.srcLen.toNat ∧ s.src.holds 0 ([0x22, 0x21, 0xA1, 0x00, 0x00, 0x00] ++ []) ∧
        s.srcLen.toNat < 8 + ([] : List Byte).length) ∧
    (let s := load [0x22, 0x21, 0xA1, 0x00, 0x01, 0x00, 0x64, 0x01, 0xFE] idle;
      6 + ([0x64] : List Byte).length ≤ s.srcLen.toNat ∧ s.src.holds 0 ([0x22, 0x21, 0xA1, 0x00, 0x01, 0x00] ++ [0x64]) ∧
        8 + ([0x64] : List Byte).length ≤ s.srcLen.toNat ∧ s.src.read 7 = some 0x01 ∧ s.src.read 8 = some 0xFE) := by
  decide

/-- An accepted frame and a rejected one. -/
theorem witness_ParseVerdict : ∀ f ∈ ([[0x22, 0x21, 0xA1, 0x00, 0x00, 0x00], [0x21, 0x22], []] : List (List Byte)),
    (load f idle).srcLen.toNat ≤ (load f idle).cfg.srcSize ∧ (load f idle).srcDefined (load f idle).srcLen.toNat := by
  intro f h
  simp only [List.mem_cons, List.not_mem_nil, or_false] at h
  rcases h with rfl | rfl | rfl <;> decide

/-- Program P2: the frame of 0xAB and the payload 00, copied back to SRC. -/
theorem witness_ParseInvertsBuild : let s := load [0x00] (idle.setCmdId 0xAB);
    ∃ t u : State, exec .build s = .next t ∧ t.err = .ok ∧ u.cfg = s.cfg ∧ 8 + s.srcLen.toNat ≤ s.cfg.srcSize ∧
      u.srcLen.toNat = 8 + s.srcLen.toNat ∧ ∀ a < 8 + s.srcLen.toNat, u.src.read a = t.dst.read a :=
  ⟨_, len 9 { idle with src := (load [0x00] (idle.setCmdId 0xAB)).dst.writeRun 0 (commandFrame cfg 0xAB [0x00]) },
    rfl, rfl, rfl, by decide, by decide, fun _ _ => rfl⟩

/-! ### Witnesses: the pixel encoder -/

/-- A raster of one byte value meets the premises of ENC1 and ENC4. -/
theorem raster_premises (g : Byte) {rows : Nat} (h : rows ≤ 86) : let px := List.replicate (384 * rows) g
    px.length = 384 * (raster rows px idle).height.toNat ∧ px.length ≤ (raster rows px idle).cfg.srcSize ∧
      48 * max (raster rows px idle).height.toNat 86 ≤ (raster rows px idle).cfg.dstSize ∧
      192 * max (raster rows px idle).height.toNat 86 ≤ (raster rows px idle).cfg.dstSize ∧
      (raster rows px idle).src.holds 0 px := by
  intro px
  have hp : px.length = 384 * rows := List.length_replicate
  have hh : (raster rows px idle).height.toNat = rows := by
    simp only [raster, BitVec.toNat_ofNat]
    omega
  have hs : (raster rows px idle).cfg.srcSize = 65543 := rfl
  have hd : (raster rows px idle).cfg.dstSize = 65543 := rfl
  exact ⟨by omega, by omega, by omega, by omega, Memory.cellsAt_holds 0 px⟩

/-- No row, one row, and the first height without padding. -/
theorem witness_Enc1PacksPixels : ∀ rows ∈ [0, 1, 86], let px := List.replicate (384 * rows) (0x00 : Byte)
    px.length = 384 * (raster rows px idle).height.toNat ∧ px.length ≤ (raster rows px idle).cfg.srcSize ∧
      48 * max (raster rows px idle).height.toNat 86 ≤ (raster rows px idle).cfg.dstSize ∧
      (raster rows px idle).src.holds 0 px := by
  intro rows h px
  obtain ⟨h1, h2, h3, -, h5⟩ := raster_premises 0x00 (rows := rows) (by
    simp only [List.mem_cons, List.not_mem_nil, or_false] at h; omega)
  exact ⟨h1, h2, h3, h5⟩

/-- No row, one row, and the first height without padding. -/
theorem witness_Enc4PacksPixels : ∀ rows ∈ [0, 1, 86], let px := List.replicate (384 * rows) (0x00 : Byte)
    px.length = 384 * (raster rows px idle).height.toNat ∧ px.length ≤ (raster rows px idle).cfg.srcSize ∧
      192 * max (raster rows px idle).height.toNat 86 ≤ (raster rows px idle).cfg.dstSize ∧
      (raster rows px idle).src.holds 0 px := by
  intro rows h px
  obtain ⟨h1, h2, -, h4, h5⟩ := raster_premises 0x00 (rows := rows) (by
    simp only [List.mem_cons, List.not_mem_nil, or_false] at h; omega)
  exact ⟨h1, h2, h4, h5⟩

/-- ENC1 and ENC4 of a raster of one byte value complete with E_OK. -/
theorem encode_completes (g : Byte) {rows : Nat} (h : rows ≤ 86) :
    (∃ t, exec .enc1 (raster rows (List.replicate (384 * rows) g) idle) = .next t ∧ t.err = .ok ∧
      t.outHeight = BitVec.ofNat 16 86) ∧
    ∃ t, exec .enc4 (raster rows (List.replicate (384 * rows) g) idle) = .next t ∧ t.err = .ok ∧
      t.outHeight = BitVec.ofNat 16 86 := by
  obtain ⟨h1, h2, h3, h4, h5⟩ := raster_premises g h
  have hm : (raster rows (List.replicate (384 * rows) g) idle).paddedRows = 86 := by
    have : (raster rows (List.replicate (384 * rows) g) idle).height.toNat = rows := by
      rw [List.length_replicate] at h1; omega
    show max (raster rows (List.replicate (384 * rows) g) idle).height.toNat 86 = 86
    omega
  have hs : (raster rows (List.replicate (384 * rows) g) idle).rasterBytes ≤
      (raster rows (List.replicate (384 * rows) g) idle).cfg.srcSize := by
    have h2' := h1 ▸ h2
    exact h2'
  refine ⟨⟨_, exec_of_ok (encodePixels_of_holds h1 hs h3 h5), rfl, ?_⟩,
    _, exec_of_ok (encodePixels_of_holds h1 hs h4 h5), rfl, ?_⟩ <;> simp [hm]

theorem witness_EncodePadsToMinimumHeight :
    (∃ t, exec .enc1 (raster 1 (List.replicate 384 0x00) idle) = .next t ∧ t.err = .ok) ∧
      ∃ t, exec .enc4 (raster 1 (List.replicate 384 0x00) idle) = .next t ∧ t.err = .ok := by
  obtain ⟨⟨t, ht, he, -⟩, u, hu, hf, -⟩ := encode_completes 0x00 (rows := 1) (by decide)
  exact ⟨⟨t, ht, he⟩, u, hu, hf⟩

/-- E3 and E7: one row, so the lines 1 to 85 are padding; the first and the last padding byte. -/
theorem witness_PaddingLinesAreZero :
    (∃ t, exec .enc1 (raster 1 (List.replicate 384 0x00) idle) = .next t ∧ t.err = .ok ∧
      48 * 1 ≤ 48 ∧ 4127 < 48 * t.outHeight.toNat) ∧
    ∃ t, exec .enc4 (raster 1 (List.replicate 384 0x00) idle) = .next t ∧ t.err = .ok ∧
      192 * 1 ≤ 192 ∧ 16511 < 192 * t.outHeight.toNat := by
  obtain ⟨⟨t, ht, he, h⟩, u, hu, hf, h'⟩ := encode_completes 0x00 (rows := 1) (by decide)
  exact ⟨⟨t, ht, he, by decide, by rw [h]; decide⟩, u, hu, hf, by decide, by rw [h']; decide⟩

/-- E1, E5 (white) and E2, E6 (black) at the first height without padding, and the last height with it. -/
theorem witness_WhiteAndBlackRasters : ∀ g ∈ ([255, 0] : List Byte), ∀ rows ∈ [85, 86],
    let s := raster rows (List.replicate (384 * rows) g) idle;
    (∃ t, exec .enc1 s = .next t ∧ t.err = .ok) ∧ (∃ t, exec .enc4 s = .next t ∧ t.err = .ok) ∧
      (∀ p < 384 * s.height.toNat, s.src.read p = some g) ∧ s.height.toNat = rows := by
  intro g _ rows h s
  have hr : rows ≤ 86 := by
    simp only [List.mem_cons, List.not_mem_nil, or_false] at h; omega
  obtain ⟨⟨t, ht, he, -⟩, u, hu, hf, -⟩ := encode_completes g hr
  have hh : s.height.toNat = rows := by
    show (BitVec.ofNat 16 rows).toNat = rows
    rw [BitVec.toNat_ofNat]; omega
  refine ⟨⟨t, ht, he⟩, ⟨u, hu, hf⟩, fun p hp => ?_, hh⟩
  have := Memory.cellsAt_holds 0 (List.replicate (384 * rows) g) p (by rw [List.length_replicate]; omega)
  rw [Nat.zero_add, List.getElem?_replicate, if_pos (by omega)] at this
  exact this

/-! ### Witnesses: completion, frames, isolation -/

/-- A legal word and an illegal one. -/
theorem witness_PendingWordCompletes : ∀ w ∈ ([0x00000002, 0x00000011] : List Word),
    (idle.issue w).turns = [] ∧ (idle.issue w).seq = .pending w := fun _ _ => ⟨rfl, rfl⟩

/-- A success, an error (E_LEN) and an illegal word. -/
theorem witness_CompletionIsPrecise :
    (∃ t, (idle.issue 0x1).turns = [] ∧ (idle.issue 0x1).seq = .pending 0x1 ∧ step (idle.issue 0x1) = .next t) ∧
    (∃ t, (len 65536 (idle.issue 0x2)).seq = .pending 0x2 ∧ step (len 65536 (idle.issue 0x2)) = .next t ∧ t.err ≠ .ok) ∧
    ∃ t, step (idle.issue 0x11) = .next t ∧ decode 0x11 = .illegal .mbz :=
  ⟨⟨_, rfl, rfl, rfl⟩, ⟨_, rfl, rfl, by decide⟩, _, rfl, rfl⟩

theorem witness_RegisterCommandFrame : (∃ t, exec .crc8 (load [0x01] idle) = .next t ∧ t.err = .ok) ∧
    ∃ t, exec .parse (load [0x22, 0x21, 0xA1, 0x00, 0x00, 0x00] idle) = .next t ∧ t.err = .ok :=
  ⟨⟨_, rfl, rfl⟩, _, rfl, rfl⟩

/-- Each of the three commands, stored and failed. -/
theorem witness_StoringCommandFrame :
    ((∃ t, exec .build (load [0x64] idle) = .next t ∧ t.err = .ok) ∧
      ∃ t, exec .build (len 9 tiny) = .next t ∧ t.err ≠ .ok) ∧
    ((∃ t, exec .enc1 idle = .next t ∧ t.err = .ok) ∧ ∃ t, exec .enc1 tiny = .next t ∧ t.err ≠ .ok) ∧
    ((∃ t, exec .enc4 idle = .next t ∧ t.err = .ok) ∧ ∃ t, exec .enc4 tiny = .next t ∧ t.err ≠ .ok) :=
  ⟨⟨⟨_, rfl, rfl⟩, _, rfl, by decide⟩, ⟨⟨_, rfl, rfl⟩, _, rfl, by decide⟩, ⟨_, rfl, rfl⟩, _, rfl, by decide⟩

/-- Two states that agree on operands and SRC and differ in STATUS and CRC; with a payload byte and without one. -/
theorem witness_ResultsDependOnOperandsOnly :
    (let s₁ := load [0x01] idle;
      let s₂ := { load [0x01] (idle.setOvr true) with crc := 0x55 };
      s₁.cfg = s₂.cfg ∧ s₁.srcLen = s₂.srcLen ∧ s₁.cmdId = s₂.cmdId ∧ s₁.height = s₂.height ∧
        (∀ a, s₁.src.read a = s₂.src.read a) ∧ ∃ t, exec .crc8 s₁ = .next t ∧ t.err = .ok) ∧
    (len 1 idle).src = (len 1 (idle.setOvr true)).src ∧ exec .crc8 (len 1 idle) = .fault .uninit :=
  ⟨⟨rfl, rfl, rfl, rfl, fun _ => rfl, _, rfl, rfl⟩, rfl, rfl⟩

/-! ### Witnesses: the host -/

theorem witness_CmdWriteIssues : (access (.regWrite 1 4 0x1) idle).mover = .host ∧
    (access (.regWrite 1 4 0x1) idle).program.head? = some (.access (.regWrite 1 4 0x1)) ∧
    (access (.regWrite 1 4 0x1) idle).seq = .idle ∧ (access (.regWrite 1 4 0x1) busy).mover = .host ∧
    (access (.regWrite 1 4 0x1) busy).seq ≠ .idle := by decide

theorem witness_OperandWritesStoreUsedBits : ∀ n ∈ [2, 3, 4], (access (.regWrite n 4 0xFFFFFFFF) idle).mover = .host ∧
    (access (.regWrite n 4 0xFFFFFFFF) idle).seq = .idle ∧
    (access (.regWrite n 4 0xFFFFFFFF) idle).program.head? = some (.access (.regWrite n 4 0xFFFFFFFF)) := by decide

/-- The first and the last register of each clause, the last SRC and DST address, and a host step under which a command
stays pending. -/
theorem witness_BusyWritesAreDropped :
    (∀ n ∈ [0, 1, 4, 5, 15], (access (.regWrite n 4 0x100) busy).mover = .host ∧
      (access (.regWrite n 4 0x100) busy).seq ≠ .idle ∧ n < 16 ∧
      (access (.regWrite n 4 0x100) busy).program.head? = some (.access (.regWrite n 4 0x100))) ∧
    65542 < busy.cfg.srcSize ∧ 65542 < busy.cfg.dstSize ∧
    (access (.memWrite .src 65542 1 0) busy).program.head? = some (.access (.memWrite .src 65542 1 0)) ∧
    (access (.memWrite .dst 65542 1 0) busy).program.head? = some (.access (.memWrite .dst 65542 1 0)) ∧
    ∃ t, step (access (.regWrite 2 4 7) busy) = .next t ∧ t.seq ≠ .idle :=
  ⟨by decide, by decide, by decide, by decide, by decide, _, rfl, by decide⟩

/-- Bit 8 set and clear, idle and busy. -/
theorem witness_StatusWriteClearsOvrOnly : ∀ v ∈ ([0x00000100, 0xFFFFFEFF] : List Word), ∀ s ∈ [idle, busy],
    (access (.regWrite 0 4 v) s).mover = .host ∧
      (access (.regWrite 0 4 v) s).program.head? = some (.access (.regWrite 0 4 v)) := by
  intro v _ s hs
  simp only [List.mem_cons, List.not_mem_nil, or_false] at hs
  rcases hs with rfl | rfl <;> exact ⟨rfl, rfl⟩

theorem witness_ReadOnlyRegistersIgnoreWrites : ∀ n ∈ [5, 12], (access (.regWrite n 4 1) busy).mover = .host ∧
    5 ≤ n ∧ n ≤ 12 ∧ (access (.regWrite n 4 1) busy).program.head? = some (.access (.regWrite n 4 1)) := by decide

theorem witness_UnallocatedRegisters : ∀ n ∈ [13, 14, 15], (access (.regRead n 4) busy).mover = .host ∧
    (access (.regRead n 4) busy).program.head? = some (.access (.regRead n 4)) ∧
    (access (.regWrite n 4 1) busy).mover = .host ∧
    (access (.regWrite n 4 1) busy).program.head? = some (.access (.regWrite n 4 1)) := by decide

/-- A register of the first list while busy, one of the second while idle. -/
theorem witness_RegisterReads :
    ((access (.regRead 4 4) busy).mover = .host ∧
      (access (.regRead 4 4) busy).program.head? = some (.access (.regRead 4 4)) ∧
      (4, (0 : Word)) ∈ [(4, (access (.regRead 4 4) busy).height.setWidth 32)]) ∧
    ((access (.regRead 12 4) idle).mover = .host ∧ (access (.regRead 12 4) idle).seq = .idle ∧
      (access (.regRead 12 4) idle).program.head? = some (.access (.regRead 12 4)) ∧
      (12, (0 : Word)) ∈ [(12, (access (.regRead 12 4) idle).pFlags.setWidth 32)]) := by decide

/-- The busy state with a byte in SRC and a host access is a legal state. -/
theorem busy_inv (a : HostAccess) : (access a busyWithByte).Inv where
  src_wf := List.pairwise_singleton _ _
  dst_wf := List.Pairwise.nil
  src_fits := by have h : ∀ c ∈ busyWithByte.src, c.1 < busyWithByte.cfg.srcSize := by decide
                 exact h
  dst_fits := by intro c hc; cases hc
  busy_not_done := fun _ => rfl
  outLen_legal := .inl rfl
  out_defined := by intro a ha; exact absurd ha (Nat.not_lt_zero _)
  outHeight_legal := .inl rfl
  pOff_legal := .inl rfl
  flags_legal := by
    have h : ¬ (busyWithByte.ftrOk = true ∨ busyWithByte.crcOk = true) := by decide
    exact fun hf => absurd hf h

/-- Each clause: STATUS, the operand registers, the last SRC byte. -/
theorem witness_BusyWindowReads : ∀ a ∈ [HostAccess.regRead 0 4, .regRead 2 4, .regRead 3 4, .regRead 4 4, .memRead .src 65542 1],
    let s := access a busyWithByte;
    s.Inv ∧ s.mover = .host ∧ s.seq ≠ .idle ∧ s.program.head? = some (.access a) ∧ 65542 < s.cfg.srcSize ∧
      s.src.read 65542 = some 0x5A :=
  fun a _ => ⟨busy_inv a, rfl, by simp [access, hosts, busyWithByte, busy], rfl, (by decide : 65542 < cfg.srcSize), rfl⟩

/-- The first and the last result register, and an undef DST byte at the last address. -/
theorem witness_BusyResultReadsAreDrawn : busy.mover = .host ∧ busy.seq ≠ .idle ∧
    (∀ n ∈ [5, 12], (access (.regRead n 4) busy).program.head? = some (.access (.regRead n 4))) ∧
    65542 < busy.cfg.dstSize ∧ busy.dst.read 65542 = none ∧
    (access (.memRead .dst 65542 1) busy).program.head? = some (.access (.memRead .dst 65542 1)) := by decide

/-- Legal and illegal widths of each access, in range; then illegal widths out of range, where R53 and R54 meet (log 9). -/
theorem witness_OtherWidthsAreRefused :
    (∀ width ∈ [1, 2, 4], (access (.regRead 0 width) idle).mover = .host ∧
      (access (.regRead 0 width) idle).program.head? = some (.access (.regRead 0 width)) ∧
      (access (.regWrite 0 width 0) idle).program.head? = some (.access (.regWrite 0 width 0)) ∧
      (access (.memRead .src 0 width) idle).program.head? = some (.access (.memRead .src 0 width)) ∧
      (access (.memWrite .dst 0 width 0) idle).program.head? = some (.access (.memWrite .dst 0 width 0))) ∧
    ((access (.regRead 16 2) tiny).mover = .host ∧
      (access (.regRead 16 2) tiny).program.head? = some (.access (.regRead 16 2)) ∧
      (HostAccess.regRead 16 2).inRange tinyCfg = false ∧
      (access (.memWrite .src 8 4 0) tiny).program.head? = some (.access (.memWrite .src 8 4 0)) ∧
      (HostAccess.memWrite .src 8 4 0).inRange tinyCfg = false) := by decide

/-- Log 9: an access of a wrong width that is also out of range is refused, and one of a right width is stuck. -/
theorem test_width_before_range : (∃ r ∈ [Refusal.accessWidth], step (access (.regRead 16 2) tiny) = .refused r) ∧
    ∃ f ∈ [Fault.hostOutOfRange], step (access (.regRead 16 4) tiny) = .fault f :=
  ⟨⟨_, List.mem_singleton_self _, rfl⟩, _, List.mem_singleton_self _, rfl⟩

/-- The first number and the first addresses out of range, idle and busy. -/
theorem witness_OutOfRangeIsStuck :
    (∀ n ∈ [16, 17], (access (.regRead n 4) tiny).mover = .host ∧ 16 ≤ n ∧
      (access (.regRead n 4) tiny).program.head? = some (.access (.regRead n 4)) ∧
      (access (.regWrite n 4 0) busy).mover = .host ∧
      (access (.regWrite n 4 0) busy).program.head? = some (.access (.regWrite n 4 0))) ∧
    tiny.cfg.srcSize ≤ 8 ∧ tiny.cfg.dstSize ≤ 8 ∧
    (∀ m ∈ [MemName.src, .dst], (access (.memRead m 8 1) tiny).mover = .host ∧
      (access (.memRead m 8 1) tiny).program.head? = some (.access (.memRead m 8 1)) ∧
      (access (.memWrite m 8 1 0) tiny).program.head? = some (.access (.memWrite m 8 1 0))) := by decide

/-- A defined and an undef byte of each memory, idle and (SRC) busy; the writes of each clause at the last address. -/
theorem witness_HostMemoryAccess :
    ((load [0x01] busy).mover = .host ∧ 0 < busy.cfg.size .src ∧ (load [0x01] busy).src.read 0 = some 0x01 ∧
      (access (.memRead .src 0 1) (load [0x01] busy)).program.head? = some (.access (.memRead .src 0 1))) ∧
    (let s := { idle with dst := [(0, 0x22)] };
      s.mover = .host ∧ s.seq = .idle ∧ 0 < s.cfg.size .dst ∧ s.dst.read 0 = some 0x22 ∧ s.dst.read 1 = none ∧
        1 < s.cfg.size .dst) ∧
    ((access (.memWrite .src 65542 1 0) idle).seq = .idle ∧ 65542 < idle.cfg.srcSize ∧
      (access (.memWrite .src 65542 1 0) busy).seq ≠ .idle ∧ 65542 < idle.cfg.dstSize) := by decide

/-- A read and a write that each change what they may: the transcript and draws; OVR; SRC. -/
theorem witness_HostAccessFrame :
    (∃ t, step (access (.regRead 5 4) busy) = .next t ∧ t.draws ≠ busy.draws) ∧
    (∃ t, step (access (.regWrite 1 4 0x3) idle) = .next t ∧ t.seq ≠ idle.seq) ∧
    (∃ t, step (access (.regWrite 2 4 7) idle) = .next t ∧ t.srcLen ≠ idle.srcLen) ∧
    (∃ t, step (access (.regWrite 3 4 7) idle) = .next t ∧ t.cmdId ≠ idle.cmdId) ∧
    (∃ t, step (access (.regWrite 4 4 7) idle) = .next t ∧ t.height ≠ idle.height) ∧
    ∃ t, step (access (.memWrite .src 0 1 7) idle) = .next t ∧ t.src ≠ idle.src :=
  ⟨⟨_, rfl, by decide⟩, ⟨_, rfl, by decide⟩, ⟨_, rfl, by decide⟩, ⟨_, rfl, by decide⟩, ⟨_, rfl, by decide⟩,
    _, rfl, by decide⟩

/-- Idle and busy. -/
theorem witness_WaitPollsStatus : (hosts [.wait] idle).mover = .host ∧ (hosts [.wait] idle).program.head? = some .wait ∧
    (hosts [.wait] busy).mover = .host ∧ (hosts [.wait] busy).seq ≠ .idle := by decide

/-- Idle, and inside the busy window. -/
theorem witness_ResetAtAnyPoint : (hosts [.reset] idle).mover = .host ∧
    (hosts [.reset] idle).program.head? = some .reset ∧ (hosts [.reset] busy).mover = .host ∧
    (hosts [.reset] busy).seq ≠ .idle := by decide

theorem witness_NothingToDoChangesNothing :
    (({ idle with turns := [.block] } : State).mover = .block ∧ idle.seq = .idle) ∧
    busy.mover = .host ∧ busy.program = [] := by decide

/-! ### Witnesses: whole-machine rules -/

/-- A legal state whose step is a host read, and the reset state. -/
theorem witness_StepKeepsInv : (access (.regRead 0 4) busyWithByte).Inv ∧
    ∃ t, step (access (.regRead 0 4) busyWithByte) = .next t :=
  ⟨busy_inv _, _, rfl⟩

theorem witness_ParametersNeverChange : ∃ t, step (hosts [.reset] busy) = .next t := ⟨_, rfl⟩

/-- An illegal word's completion, and a reset after an error. -/
theorem witness_ErrWrittenOnlyAtCompletion :
    (∃ t, step (idle.issue 0x0) = .next t ∧ t.err ≠ (idle.issue 0x0).err) ∧
    ∃ t, step (hosts [.reset] (idle.complete .short)) = .next t ∧ t.err ≠ (idle.complete .short).err :=
  ⟨⟨_, rfl, by decide⟩, _, rfl, by decide⟩

/-- Set by a dropped register write and a dropped SRC write; cleared by a STATUS write and by reset. -/
theorem witness_OvrSetAndCleared :
    (∃ t, step (access (.regWrite 4 4 0) busy) = .next t ∧ busy.ovr = false ∧ t.ovr = true) ∧
    (∃ t, step (access (.memWrite .src 0 1 0) busy) = .next t ∧ busy.ovr = false ∧ t.ovr = true) ∧
    (∃ t, step (access (.regWrite 0 4 0x100) (idle.setOvr true)) = .next t ∧ (idle.setOvr true).ovr = true ∧
      t.ovr = false) ∧
    ∃ t, step (hosts [.reset] (idle.setOvr true)) = .next t ∧ t.ovr = false :=
  ⟨⟨_, rfl, rfl, rfl⟩, ⟨_, rfl, rfl, rfl⟩, ⟨_, rfl, rfl, rfl⟩, _, rfl, rfl⟩

theorem witness_SrcWrittenOnlyByHost :
    (∃ t, step (access (.memWrite .src 0 1 7) idle) = .next t ∧ t.src ≠ idle.src) ∧
    ∃ t, step (hosts [.reset] (load [0x01] idle)) = .next t ∧ t.src ≠ (load [0x01] idle).src :=
  ⟨⟨_, rfl, by decide⟩, _, rfl, by decide⟩

/-- A BUILD, and a reset after one. -/
theorem witness_DstWrittenOnlyByStores :
    (∃ t, step (idle.issue 0x2) = .next t ∧ t.dst.read 0 ≠ (idle.issue 0x2).dst.read 0) ∧
    ∃ t, step (hosts [.reset] { idle with dst := [(0, 0x22)] }) = .next t ∧ t.dst ≠ [(0, 0x22)] :=
  ⟨⟨_, rfl, by decide⟩, _, rfl, by decide⟩

/-- No listed turn, and three. -/
theorem witness_PendingCommandIsEventuallyCompleted : ∀ n ∈ [0, 3],
    let s := { idle.issue 0x1 with turns := List.replicate n .host };
    s.seq = .pending 0x1 ∧ s.program = [] ∧ s.turns = List.replicate n .host := fun _ _ => ⟨rfl, rfl, rfl⟩

end Sys2Proof.Tests
end

/-! ## Proofs: `undef` bytes (R13, R57, R208, R216) -/

namespace Sys2Proof.Machine

/-- A part that stops with nothing but UNINIT, before a rest that does stop with it: UNINIT either way. -/
theorem Cmd.bind_eq_uninit {α β : Type} {x : Cmd α} {f : α → Cmd β} (hx : ∀ a, x = .error a → a = .uninit)
    (hf : ∀ b, x = .ok b → f b = .error .uninit) : (x >>= f) = .error .uninit := by
  cases x with
  | ok b => rw [Cmd.bind_ok, hf b rfl]
  | error a => rw [Cmd.bind_error, hx a rfl]

/-- The first six bytes of a frame whose id and reserved byte are there too are defined. -/
theorem State.FrameHead.six_le_of_undef {s : State} {lo hi id rsv : Byte} {i : Nat} (h : s.FrameHead lo hi)
    (h2 : s.src.read 2 = some id) (h3 : s.src.read 3 = some rsv) (hu : s.src.read i = none) : 6 ≤ i := by
  by_contra hlt
  have hdef : s.src.read i ≠ none := by
    obtain rfl | rfl | rfl | rfl | rfl | rfl : i = 0 ∨ i = 1 ∨ i = 2 ∨ i = 3 ∨ i = 4 ∨ i = 5 := by omega
    · simp [h.hdr0]
    · simp [h.hdr1]
    · simp [h2]
    · simp [h3]
    · simp [h.lo]
    · simp [h.hi]
  exact hdef hu

/-- Past PARSE's last check (R124) no error is left to raise, so one `undef` byte among those it reads is UNINIT, whichever
of its reads meets it first (R208). -/
theorem parseNotification_body_undef {s : State} {lo hi : Byte} {i : Nat} (h : s.FrameHead lo hi)
    (hn : 6 + (lengthField lo hi).toNat ≤ s.srcCount) (hu : s.src.read i = none)
    (hread : i < 6 + (lengthField lo hi).toNat ∨
      (i < 8 + (lengthField lo hi).toNat ∧ 8 + (lengthField lo hi).toNat ≤ s.srcCount)) :
    parseNotification s = .error .uninit := by
  rw [parseNotification_of_head h, raiseIf_neg (Nat.not_lt.mpr hn), Cmd.bind_ok]
  refine Cmd.bind_eq_uninit (fun _ he => (State.srcByte_error he).1) fun id hid => ?_
  refine Cmd.bind_eq_uninit (fun _ he => (State.srcByte_error he).1) fun rsv hrsv => ?_
  have h6 : 6 ≤ i := h.six_le_of_undef (State.srcByte_ok hid) (State.srcByte_ok hrsv) hu
  by_cases hpay : i < 6 + (lengthField lo hi).toNat
  · have hrun : s.srcRun (lengthField lo hi).toNat 6 = .error .uninit :=
      State.srcRun_undef (i := i - 6) (by omega) (by rwa [Nat.add_sub_cancel' h6])
    rw [hrun, Cmd.bind_error]
  · obtain ⟨hlt, hroom⟩ := hread.resolve_left hpay
    have htrailer : s.src.read (6 + (lengthField lo hi).toNat) = none ∨
        s.src.read (7 + (lengthField lo hi).toNat) = none := by
      obtain rfl | rfl : i = 6 + (lengthField lo hi).toNat ∨ i = 7 + (lengthField lo hi).toNat := by omega
      · exact .inl hu
      · exact .inr hu
    refine Cmd.bind_eq_uninit (fun _ he => (State.srcRun_error he).1) fun payload _ => ?_
    rw [trailerBytes_undef hroom htrailer, Cmd.bind_error]

/-- Settles O14: each command's checks pass under its premises, and its first read of an `undef` byte is UNINIT. -/
theorem undefinedBytesFault : Obligations.UndefinedBytesFault := by
  unfold Obligations.UndefinedBytesFault
  intro s
  refine ⟨?crc8, ?build, ?enc1, ?enc4, ?header, ?length, ?body⟩
  case crc8 => exact fun i hs hi hu => exec_of_uninit (crc8Command_undef hs hi hu)
  case build => exact fun i hm hs hd hi hu => exec_of_uninit (buildCommand_undef hm hs hd hi hu)
  case enc1 => exact fun i hs hd hi hu => exec_of_uninit (encodePixels_undef hs hd hi hu)
  case enc4 => exact fun i hs hd hi hu => exec_of_uninit (encodePixels_undef hs hd hi hu)
  case header => exact fun hs hn hu => exec_of_uninit (parseNotification_header_undef hs hn hu)
  case length => exact fun hs h6 h0 h1 hu => exec_of_uninit (parseNotification_length_undef hs h0 h1 h6 hu)
  case body =>
    intro lo hi i hs h0 h1 h4 h5 hn hu hread
    rw [← lengthField_toNat] at hn hread
    have head : s.FrameHead lo hi := ⟨hs, (Nat.le_add_right 6 _).trans hn, h0, h1, h4, h5⟩
    exact exec_of_uninit (parseNotification_body_undef head hn hu hread)

end Sys2Proof.Machine

/-! ## Proofs: the invariant of legal states (R22, R28, R29, R32, R34, R40, R41, R63) -/

namespace Sys2Proof.Machine

theorem legalOutLen.lt_two_pow {n : Nat} (h : legalOutLen n) : n < 2 ^ 32 := by
  rcases h with rfl | ⟨-, h⟩ | ⟨rows, -, hr, rfl | rfl⟩ <;> omega

/-- FTR_OK and CRC_OK are set only where there is a trailer (R34). -/
theorem trailerFlags_legal (c : Byte) (trailer : Option (Byte × Byte)) :
    (trailerFlags c trailer).getLsbD 1 = true ∨ (trailerFlags c trailer).getLsbD 2 = true →
      (trailerFlags c trailer).getLsbD 0 = true := by
  cases trailer with
  | none => rw [trailerFlags]; decide
  | some bytes => exact fun _ => parseFlags_trl _ _ _

/-- The OUT_LEN bytes of a stored output are the output's (R28, R63). -/
theorem State.storeOutput_read {s : State} {out : List Byte} {a : Nat} (h : a < (s.storeOutput out).outLen.toNat) :
    (s.storeOutput out).dst.read a = out[a]? := by
  have hmod : (s.storeOutput out).outLen.toNat = out.length % 2 ^ 32 := BitVec.toNat_ofNat _ _
  have hlt : a < out.length := by
    rw [hmod] at h
    exact h.trans_le (Nat.mod_le _ _)
  rw [State.storeOutput_dst, Memory.read_writeRun_zero, if_pos hlt]

/-! ### What each update of the state does to the invariant -/

theorem State.resetWith_inv (cfg : Config) : (State.resetWith cfg).Inv where
  src_wf := List.Pairwise.nil
  dst_wf := List.Pairwise.nil
  src_fits := fun _ hc => absurd hc List.not_mem_nil
  dst_fits := fun _ hc => absurd hc List.not_mem_nil
  busy_not_done := fun _ => rfl
  outLen_legal := .inl rfl
  out_defined := fun _ ha => absurd ha (Nat.not_lt_zero _)
  outHeight_legal := .inl rfl
  pOff_legal := .inl rfl
  flags_legal := fun h => by simp [State.ftrOk, State.crcOk, State.resetWith] at h

theorem State.hostReset_inv (s : State) : s.hostReset.Inv := { State.resetWith_inv s.cfg with }

namespace State.Inv

variable {s : State} (h : s.Inv)
include h

theorem endTurn : s.endTurn.Inv := { h with }

theorem endHostOp : s.endHostOp.Inv := { h with }

theorem observe (o : Observed) : (s.observe o).Inv := { h with }

theorem countDraw : s.countDraw.Inv := { h with }

theorem setOvr (b : Bool) : (s.setOvr b).Inv := { h with }

theorem setSrcLen (v : Word) : (s.setSrcLen v).Inv := { h with }

theorem setCmdId (v : Word) : (s.setCmdId v).Inv := { h with }

theorem setHeight (v : Word) : (s.setHeight v).Inv := { h with }

theorem storeCrc (c : Byte) : (s.storeCrc c).Inv := { h with }

theorem issue (w : Word) : (s.issue w).Inv := { h with busy_not_done := fun _ => rfl }

theorem complete (e : ErrCode) : (s.complete e).Inv := { h with busy_not_done := fun hb => by simp at hb }

theorem setSrcByte {a : Nat} (ha : a < s.cfg.srcSize) (b : Byte) : (s.setSrcByte a b).Inv :=
  { h with
    src_wf := Memory.write_wf h.src_wf a b
    src_fits := Memory.write_fits h.src_fits ha }

theorem storeOutput {out : List Byte} (hlen : legalOutLen out.length) (hfit : out.length ≤ s.cfg.dstSize) :
    (s.storeOutput out).Inv :=
  have hnat : (s.storeOutput out).outLen.toNat = out.length := Nat.mod_eq_of_lt hlen.lt_two_pow
  { h with
    dst_wf := Memory.writeRun_wf h.dst_wf 0 out
    dst_fits := Memory.writeRun_fits h.dst_fits (by rwa [Nat.zero_add])
    outLen_legal := by rwa [hnat]
    out_defined := fun a ha => by
      rw [State.storeOutput_read ha]
      rw [hnat] at ha
      simpa using ha }

theorem storeOutHeight {lines : Nat} (hmin : 86 ≤ lines) (hmax : lines ≤ 65535) : (s.storeOutHeight lines).Inv :=
  { h with outHeight_legal := .inr (by simp; omega) }

theorem storeParsed (id : Byte) (len : BitVec 16) (rsvd c : Byte) (trailer : Option (Byte × Byte)) :
    (s.storeParsed id len rsvd (trailerFlags c trailer)).Inv :=
  { h with
    pOff_legal := .inr rfl
    flags_legal := trailerFlags_legal c trailer }

end State.Inv

/-! ### The block's steps -/

theorem encodePixels_keeps_inv {bpl per : Nat} {pack : List Byte → Byte} {s u : State} (hbpl : bpl = 48 ∨ bpl = 192)
    (h : s.Inv) (hu : encodePixels bpl per pack s = .ok u) : u.Inv := by
  obtain ⟨raster, -, -, hd, -, rfl⟩ := encodePixels_ok hu
  obtain ⟨hmin, hmax⟩ := s.paddedRows_bounds
  have hlen : legalOutLen (bpl * s.paddedRows) :=
    .inr (.inr ⟨s.paddedRows, hmin, hmax, hbpl.imp (by rintro rfl; rfl) (by rintro rfl; rfl)⟩)
  exact (h.storeOutput (by rwa [packLines_length]) (by rwa [packLines_length])).storeOutHeight hmin hmax

/-- The results of every successful command are legal. -/
theorem commandBody_keeps_inv {i : Instr} {s u : State} (h : s.Inv) (hu : commandBody i s = .ok u) : u.Inv := by
  cases i with
  | crc8 =>
    obtain ⟨_, -, -, -, rfl⟩ := crc8Command_ok hu
    exact h.storeCrc _
  | build =>
    obtain ⟨p, hl, hm, -, hd, -, rfl⟩ := buildCommand_ok hu
    have hlen : (commandFrame s.cfg s.cmdId p).length = 8 + s.srcCount := by rw [commandFrame_length, hl]
    exact (h.storeCrc _).storeOutput (by rw [hlen]; exact .inr (.inl ⟨by omega, by omega⟩)) (by rwa [hlen])
  | parse =>
    obtain ⟨_, _, _, _, _, _, -, -, -, -, -, -, -, rfl⟩ := parseNotification_ok hu
    exact (h.storeCrc _).storeParsed _ _ _ _ _
  | enc1 => exact encodePixels_keeps_inv (.inl rfl) h hu
  | enc4 => exact encodePixels_keeps_inv (.inr rfl) h hu

theorem completeWord_keeps_inv {w : Word} {s t : State} (h : s.Inv) (ht : completeWord w s = .next t) : t.Inv := by
  rcases completeWord_next ht with ⟨i, u, -, hu, rfl⟩ | ⟨e, rfl⟩
  · exact (commandBody_keeps_inv h hu).complete .ok
  · exact h.complete e

/-! ### The host's steps -/

theorem State.hostAccess_keeps_inv {s t : State} {a : HostAccess} (h : s.Inv) (ht : s.hostAccess a = .next t) :
    t.Inv := by
  obtain ⟨-, hrange, hperf⟩ := State.hostAccess_next ht
  rcases State.performAccess_next hperf with rfl | ⟨o, rfl⟩ | ⟨o, -, rfl⟩ | ⟨-, -, -, -, rfl⟩ | ⟨-, rfl, -⟩ |
    ⟨-, ⟨_, v, -, rfl⟩ | ⟨_, v, -, rfl⟩ | ⟨_, v, -, rfl⟩ | ⟨_, v, -, rfl⟩ | ⟨x, _, b, rfl, rfl⟩⟩
  · exact h
  · exact h.observe o
  · exact (h.observe o).countDraw
  · exact h.setOvr false
  · exact h.setOvr true
  · exact h.issue v
  · exact h.setSrcLen v
  · exact h.setCmdId v
  · exact h.setHeight v
  · exact h.setSrcByte (of_decide_eq_true hrange) b

/-- Settles O50: each thing a step can do is an update that keeps the invariant. -/
theorem stepKeepsInv : Obligations.StepKeepsInv := by
  unfold Obligations.StepKeepsInv
  intro s t h ht
  rcases step_next ht with ⟨-, -, rfl⟩ | ⟨w, -, -, hw⟩ | ⟨-, -, rfl⟩ | ⟨a, _, -, -, ha⟩ | ⟨_, -, -, rfl⟩ |
    ⟨_, -, -, rfl⟩
  · exact h.endTurn
  · exact completeWord_keeps_inv h.endTurn hw
  · exact h.endTurn
  · exact State.hostAccess_keeps_inv h.endTurn.endHostOp ha
  · rw [State.readReg_status]
    split
    · exact h.endTurn.observe _
    · exact (h.endTurn.observe _).endHostOp
  · exact State.hostReset_inv _

/-- Settles O49: nothing is written yet in a reset state. -/
theorem invHoldsAtReset : Obligations.InvHoldsAtReset :=
  ⟨State.resetWith_inv _, State.resetWith_inv⟩

end Sys2Proof.Machine

/-! ## Proofs: what the commands complete with (R100, R120, R124), and their frames (R44, R45, R57, R63) -/

namespace Sys2Proof.Machine

/-- Settles O7: the checks pass, and crc8 is the fold of the statement. -/
theorem crc8Completes : Obligations.Crc8Completes := by
  unfold Obligations.Crc8Completes
  intro s data hl hs hsrc
  have hok : commandBody .crc8 s = .ok (s.storeCrc (crc8 s.cfg data)) := crc8Command_of_holds hl hs hsrc
  exact exec_of_ok hok

/-! ### BUILD -/

/-- The length bytes of a frame are the low bytes of the 32-bit count (R76, R77). -/
theorem lenLo_ofNat (v : Word) : lenLo (BitVec.ofNat 16 v.toNat) = v.extractLsb' 0 8 := by
  rw [lenLo, BitVec.ofNat_toNat, BitVec.extractLsb'_setWidth_of_le (by omega)]

theorem lenHi_ofNat (v : Word) : lenHi (BitVec.ofNat 16 v.toNat) = v.extractLsb' 8 8 := by
  rw [lenHi, BitVec.ofNat_toNat, BitVec.extractLsb'_setWidth_of_le (by omega)]

/-- What DST holds after a frame is written from address 0 (R63, R76). -/
theorem Memory.read_writeFrame (m : Memory) (cfg : Config) (id : Byte) (p : List Byte) {a : Nat}
    (h : a < 8 + p.length) : (m.writeRun 0 (commandFrame cfg id p)).read a = (commandFrame cfg id p)[a]? := by
  rw [Memory.read_writeRun_zero, commandFrame_length, if_pos h]

/-- Settles O15: the checks pass, and each frame byte is read back from the run written at DST[0]. -/
theorem buildWritesFrame : Obligations.BuildWritesFrame := by
  unfold Obligations.BuildWritesFrame
  intro s p hl hm hs hd hsrc
  have hcount : p.length = s.srcCount := hl
  have hok : commandBody .build s = .ok ((s.storeCrc (crc8 s.cfg p)).storeOutput (commandFrame s.cfg s.cmdId p)) :=
    buildCommand_of_holds hcount (hcount ▸ hm) (hcount ▸ hs) (hcount ▸ hd) hsrc
  have hread : ∀ a < 8 + p.length, (s.dst.writeRun 0 (commandFrame s.cfg s.cmdId p)).read a =
      (commandFrame s.cfg s.cmdId p)[a]? := fun a ha => s.dst.read_writeFrame s.cfg s.cmdId p ha
  have hhead : ∀ a < 6, (s.dst.writeRun 0 (commandFrame s.cfg s.cmdId p)).read a =
      [0x22, 0x21, s.cmdId, 0x00, s.srcLen.extractLsb' 0 8, s.srcLen.extractLsb' 8 8][a]? := fun a ha => by
    rw [hread a (by omega), commandFrame_eq, List.append_assoc, List.getElem?_append_left ha, hl, lenLo_ofNat,
      lenHi_ofNat]
  refine ⟨_, exec_of_ok hok, ?_, hhead 0 (by decide), hhead 1 (by decide), hhead 2 (by decide), hhead 3 (by decide),
    hhead 4 (by decide), hhead 5 (by decide), fun i hi => ?_, ?_, ?_, fun a ha => ?_⟩
  · simp only [State.complete, State.storeOutput, State.storeCrc, commandFrame_length]
  · exact (hread _ (by omega)).trans (commandFrame_payload _ _ _ hi)
  · exact (hread _ (by omega)).trans (commandFrame_crc _ _ _)
  · exact (hread _ (by omega)).trans (commandFrame_footer _ _ _)
  · have hpast : ¬ a < (commandFrame s.cfg s.cmdId p).length := by rw [commandFrame_length]; omega
    exact (Memory.read_writeRun_zero _ _ _).trans (if_neg hpast)

/-! ### PARSE -/

/-- Settles O17: SRC holds the frame byte by byte, so every read of PARSE and every check is known. -/
theorem parseReportsFrame : Obligations.ParseReportsFrame := by
  unfold Obligations.ParseReportsFrame
  intro s id rsv lo hi payload hs hlen hn hsrc after
  obtain ⟨hhdr, hpay⟩ := Memory.holds_append.mp hsrc
  have hfield : payload.length = (lengthField lo hi).toNat := by rw [hlen, lengthField_toNat]
  have hlenField : lengthField lo hi = BitVec.ofNat 16 payload.length := by
    rw [hfield, BitVec.ofNat_toNat, BitVec.setWidth_eq]
  have head : s.FrameHead lo hi :=
    ⟨hs, (Nat.le_add_right 6 _).trans hn, hhdr 0 (by simp), hhdr 1 (by simp), hhdr 4 (by simp), hhdr 5 (by simp)⟩
  have hok : ∀ trailer, trailerBytes s s.srcCount payload.length = .ok trailer →
      exec .parse s = .next (after (trailerFlags (crc8 s.cfg payload) trailer)) := fun trailer ht => by
    have hbody := parseNotification_of_reads head hfield hn (hhdr 2 (by simp)) (hhdr 3 (by simp)) hpay ht
    rw [hlenField] at hbody
    exact exec_of_ok (i := .parse) hbody
  refine ⟨fun hshort => hok none (trailerBytes_short hshort), fun crcByte ftrByte hroom hcrc hftr => ?_⟩
  refine ⟨_, hok _ (trailerBytes_of_reads hroom hcrc hftr), parseFlags_trl _ _ _, ?_, ?_⟩
  · exact (parseFlags_ftrOk _ _ _).trans (beq_eq_decide ..)
  · exact (parseFlags_crcOk _ _ _).trans (beq_eq_decide ..)

/-! ### Frames -/

/-- Settles O28: the results of the two commands are CRC, the working register and (PARSE) the P_ registers. -/
theorem registerCommandFrame : Obligations.RegisterCommandFrame := by
  unfold Obligations.RegisterCommandFrame
  intro s t
  refine ⟨fun h => ?crc8, fun h => ?parse⟩
  case crc8 =>
    rcases exec_next h with ⟨u, hu, rfl⟩ | ⟨e, -, rfl⟩
    · obtain ⟨_, -, -, -, rfl⟩ := crc8Command_ok hu
      exact ⟨rfl, fun _ => ⟨rfl, rfl⟩⟩
    · exact ⟨rfl, fun _ => ⟨rfl, rfl⟩⟩
  case parse =>
    rcases exec_next h with ⟨u, hu, rfl⟩ | ⟨e, -, rfl⟩
    · obtain ⟨_, _, _, _, _, _, -, -, -, -, -, -, -, rfl⟩ := parseNotification_ok hu
      exact ⟨rfl, fun _ => ⟨rfl, rfl⟩⟩
    · exact ⟨rfl, fun _ => ⟨rfl, rfl⟩⟩

/-- An encode of `bpl` bytes a line writes DST, OUT_LEN and OUT_HEIGHT; it stores nothing if it fails, and nothing from
the stored run's end up (R44, R63). -/
theorem encodePixels_frame {bpl per : Nat} {pack : List Byte → Byte} {s t : State}
    (h : finish s (encodePixels bpl per pack s) = .next t) :
    t = { s with
      dst := t.dst, outLen := t.outLen, outHeight := t.outHeight, err := t.err, done := t.done, seq := t.seq } ∧
    (t.err ≠ .ok → ∀ a, t.dst.read a = s.dst.read a) ∧
    ∀ a, bpl * s.paddedRows ≤ a → t.dst.read a = s.dst.read a := by
  rcases finish_next h with ⟨u, hu, rfl⟩ | ⟨e, -, rfl⟩
  · obtain ⟨raster, -, -, -, -, rfl⟩ := encodePixels_ok hu
    refine ⟨rfl, fun hne => absurd rfl hne, fun a ha => ?_⟩
    exact (Memory.read_writeRun_zero _ _ _).trans (if_neg (by rw [packLines_length]; omega))
  · exact ⟨rfl, fun _ _ => rfl, fun _ _ => rfl⟩

/-- Settles O29: BUILD's run is the frame's 8 + L bytes, an encode's is its lines. -/
theorem storingCommandFrame : Obligations.StoringCommandFrame := by
  unfold Obligations.StoringCommandFrame
  intro s t
  refine ⟨fun h => ?build, fun h => encodePixels_frame h, fun h => encodePixels_frame h⟩
  case build =>
    rcases exec_next h with ⟨u, hu, rfl⟩ | ⟨e, -, rfl⟩
    · obtain ⟨p, hl, -, -, -, -, rfl⟩ := buildCommand_ok hu
      refine ⟨rfl, fun hne => absurd rfl hne, fun a ha => ?_⟩
      have hpast : ¬ a < (commandFrame s.cfg s.cmdId p).length := by
        rw [commandFrame_length, hl]
        exact Nat.not_lt.mpr ha
      exact (Memory.read_writeRun_zero _ _ _).trans (if_neg hpast)
    · exact ⟨rfl, fun _ _ => rfl, fun _ _ => rfl⟩

/-! ### Outcomes depend on the operands alone (R38, R103, R106, R133) -/

/-- The two states give a command the same operands: parameters, operand registers and SRC bytes (R73). -/
structure State.SameOperands (s₁ s₂ : State) : Prop where
  cfg : s₁.cfg = s₂.cfg
  srcLen : s₁.srcLen = s₂.srcLen
  cmdId : s₁.cmdId = s₂.cmdId
  height : s₁.height = s₂.height
  src : ∀ a, s₁.src.read a = s₂.src.read a

/-- The two states agree on the result registers the command writes and on the bytes it stores (R44). -/
def SameResults (i : Instr) (t₁ t₂ : State) : Prop :=
  (i = .crc8 ∨ i = .build ∨ i = .parse → t₂.crc = t₁.crc) ∧
  (i = .build ∨ i = .enc1 ∨ i = .enc4 →
    t₂.outLen = t₁.outLen ∧ ∀ a < t₁.outLen.toNat, t₂.dst.read a = t₁.dst.read a) ∧
  (i = .enc1 ∨ i = .enc4 → t₂.outHeight = t₁.outHeight) ∧
  (i = .parse → t₂.pId = t₁.pId ∧ t₂.pLen = t₁.pLen ∧ t₂.pOff = t₁.pOff ∧ t₂.pRsvd = t₁.pRsvd ∧
    t₂.pFlags = t₁.pFlags)

/-- Two computations end alike: with the same abort, or with results that are related. -/
def Cmd.EndAlike {α : Type} (R : α → α → Prop) : Cmd α → Cmd α → Prop
  | .ok a, .ok b => R a b
  | .error e, .error e' => e = e'
  | .ok _, .error _ => False
  | .error _, .ok _ => False

/-- A shared first part, then rests that end alike on its result. -/
theorem Cmd.EndAlike.bind {α β : Type} {R : β → β → Prop} {x y : Cmd α} {f g : α → Cmd β} (hxy : x = y)
    (h : ∀ a, Cmd.EndAlike R (f a) (g a)) : Cmd.EndAlike R (x >>= f) (y >>= g) := by
  subst hxy
  cases x with
  | ok a => exact h a
  | error e => exact rfl

theorem Cmd.EndAlike.error {α : Type} {R : α → α → Prop} {x y : Cmd α} {e : Abort} (h : Cmd.EndAlike R x y)
    (hx : x = .error e) : y = .error e := by
  subst hx
  cases y with
  | ok b => exact h.elim
  | error e' => exact congrArg _ (Eq.symm h)

theorem Cmd.EndAlike.ok {α : Type} {R : α → α → Prop} {x y : Cmd α} {a : α} (h : Cmd.EndAlike R x y)
    (hx : x = .ok a) : ∃ b, y = .ok b ∧ R a b := by
  subst hx
  cases y with
  | ok b => exact ⟨b, rfl, h⟩
  | error e' => exact h.elim

/-- Two states that store the same output agree on OUT_LEN and on the bytes it counts. -/
theorem State.storeOutput_agrees (s₁ s₂ : State) (out : List Byte) :
    (s₂.storeOutput out).outLen = (s₁.storeOutput out).outLen ∧
      ∀ a < (s₁.storeOutput out).outLen.toNat, (s₂.storeOutput out).dst.read a = (s₁.storeOutput out).dst.read a :=
  ⟨rfl, fun _ ha => (State.storeOutput_read (s := s₂) ha).trans (State.storeOutput_read ha).symm⟩

namespace State.SameOperands

variable {s₁ s₂ : State} (h : s₁.SameOperands s₂)
include h

theorem srcCount_eq : s₁.srcCount = s₂.srcCount := by rw [State.srcCount, h.srcLen, State.srcCount]

theorem rows_eq : s₁.rows = s₂.rows := by rw [State.rows, h.height, State.rows]

theorem srcByte_eq (a : Nat) : s₁.srcByte a = s₂.srcByte a := by rw [State.srcByte, h.src, State.srcByte]

theorem srcRun_eq (n a : Nat) : s₁.srcRun n a = s₂.srcRun n a := by
  rw [State.srcRun, Memory.readRun_congr fun _ _ => h.src _, State.srcRun]

theorem trailerBytes_eq (n len : Nat) : trailerBytes s₁ n len = trailerBytes s₂ n len := by
  simp only [trailerBytes, h.srcByte_eq]

theorem encodePixels_endAlike (bpl per : Nat) (pack : List Byte → Byte) {i : Instr} (hi : i = .enc1 ∨ i = .enc4) :
    Cmd.EndAlike (SameResults i) (encodePixels bpl per pack s₁) (encodePixels bpl per pack s₂) := by
  have hbytes : s₁.rasterBytes = s₂.rasterBytes := congrArg (384 * ·) h.rows_eq
  have hpadded : s₁.paddedRows = s₂.paddedRows := congrArg (max · 86) h.rows_eq
  refine .bind (by rw [hbytes, h.cfg]) fun _ => .bind (by rw [hpadded, h.cfg]) fun _ =>
    .bind (by rw [hbytes, h.srcRun_eq]) fun raster => ?_
  rw [h.rows_eq, hpadded]
  refine ⟨?_, fun _ => State.storeOutput_agrees _ _ _, fun _ => rfl, ?_⟩
  · rcases hi with rfl | rfl <;> simp
  · rcases hi with rfl | rfl <;> simp

theorem commandBody_endAlike (i : Instr) : Cmd.EndAlike (SameResults i) (commandBody i s₁) (commandBody i s₂) := by
  cases i with
  | crc8 =>
    refine .bind (by rw [h.srcCount_eq, h.cfg]) fun _ => .bind (by rw [h.srcCount_eq, h.srcRun_eq]) fun data => ?_
    rw [h.cfg]
    exact ⟨fun _ => rfl, by simp, by simp, by simp⟩
  | build =>
    refine .bind (by rw [h.srcCount_eq]) fun _ => .bind (by rw [h.srcCount_eq, h.cfg]) fun _ =>
      .bind (by rw [h.srcCount_eq, h.cfg]) fun _ => .bind (by rw [h.srcCount_eq, h.srcRun_eq]) fun p => ?_
    rw [h.cfg, h.cmdId]
    exact ⟨fun _ => rfl, fun _ => State.storeOutput_agrees _ _ _, by simp, by simp⟩
  | parse =>
    refine .bind (by rw [h.srcCount_eq, h.cfg]) fun _ => .bind (by rw [h.srcCount_eq]) fun _ =>
      .bind (h.srcByte_eq _) fun _ => .bind (h.srcByte_eq _) fun _ => .bind rfl fun _ =>
      .bind (by rw [h.srcCount_eq]) fun _ => .bind (h.srcByte_eq _) fun lo => .bind (h.srcByte_eq _) fun hi =>
      .bind (by rw [h.srcCount_eq]) fun _ => .bind (h.srcByte_eq _) fun id => .bind (h.srcByte_eq _) fun rsv =>
      .bind (h.srcRun_eq _ _) fun payload => .bind (by rw [h.srcCount_eq, h.trailerBytes_eq]) fun trailer => ?_
    rw [h.cfg]
    exact ⟨fun _ => rfl, by simp, by simp, fun _ => ⟨rfl, rfl, rfl, rfl, rfl⟩⟩
  | enc1 => exact h.encodePixels_endAlike _ _ _ (.inl rfl)
  | enc4 => exact h.encodePixels_endAlike _ _ _ (.inr rfl)

end State.SameOperands

/-- A command faults only where its pseudocode stops with UNINIT (R216). -/
theorem exec_fault {i : Instr} {s : State} {f : Fault} (h : exec i s = .fault f) :
    commandBody i s = .error .uninit := by
  rw [exec_eq_finish] at h
  match hr : commandBody i s with
  | .ok u => rw [hr] at h; cases h
  | .error (.error e) => rw [hr] at h; cases h
  | .error .uninit => rfl

/-- Settles O30: the pseudocode of a command ends alike on the two states. -/
theorem resultsDependOnOperandsOnly : Obligations.ResultsDependOnOperandsOnly := by
  unfold Obligations.ResultsDependOnOperandsOnly
  intro i s₁ s₂ hcfg hlen hid hheight hsrc
  have alike := State.SameOperands.commandBody_endAlike ⟨hcfg, hlen, hid, hheight, hsrc⟩ i
  refine ⟨fun hf => ?_, fun t₁ ht => ?_⟩
  · exact exec_of_uninit (alike.error (exec_fault hf))
  · rcases exec_next ht with ⟨u₁, hu₁, rfl⟩ | ⟨e, he, rfl⟩
    · obtain ⟨u₂, hu₂, same⟩ := alike.ok hu₁
      exact ⟨_, exec_of_ok hu₂, rfl, fun _ => same⟩
    · refine ⟨_, exec_of_error (alike.error he), rfl, fun hok => ?_⟩
      obtain rfl : e = .ok := hok
      exact absurd he commandBody_error_ne_ok

end Sys2Proof.Machine

/-! ## Proofs: what no step changes, and what a change of ERR, OVR, SRC or DST tells of the step -/

namespace Sys2Proof.Machine

theorem State.busy_iff_seq_ne_idle {s : State} : s.busy = true ↔ s.seq ≠ .idle := bne_iff_ne

/-- From `s` to `t` the block's own state and the parameters stay as they are; the host's fields may change. -/
structure State.SameBlock (s t : State) : Prop where
  cfg : t.cfg = s.cfg
  seq : t.seq = s.seq
  done : t.done = s.done
  err : t.err = s.err
  ovr : t.ovr = s.ovr
  srcLen : t.srcLen = s.srcLen
  cmdId : t.cmdId = s.cmdId
  height : t.height = s.height
  crc : t.crc = s.crc
  outLen : t.outLen = s.outLen
  outHeight : t.outHeight = s.outHeight
  pId : t.pId = s.pId
  pLen : t.pLen = s.pLen
  pOff : t.pOff = s.pOff
  pRsvd : t.pRsvd = s.pRsvd
  pFlags : t.pFlags = s.pFlags
  crcWork : t.crcWork = s.crcWork
  src : t.src = s.src
  dst : t.dst = s.dst

/-- Everything a step can do to the block: complete a word, make a host access, reset, or nothing (an agent with nothing
to do, a poll). -/
theorem step_next_block {s t : State} (h : step s = .next t) :
    (∃ w, s.mover = .block ∧ s.seq = .pending w ∧ completeWord w s.endTurn = .next t) ∨
    (∃ a, s.mover = .host ∧ s.program.head? = some (.access a) ∧ s.endTurn.endHostOp.hostAccess a = .next t) ∨
    (s.mover = .host ∧ s.program.head? = some .reset ∧ t = s.endTurn.endHostOp.hostReset) ∨
    s.SameBlock t := by
  rcases step_next h with ⟨-, -, rfl⟩ | hw | ⟨-, -, rfl⟩ | ⟨a, _, hm, hp, ha⟩ | ⟨_, -, -, rfl⟩ | ⟨_, hm, hp, ht⟩
  · exact .inr (.inr (.inr (by constructor <;> rfl)))
  · exact .inl hw
  · exact .inr (.inr (.inr (by constructor <;> rfl)))
  · exact .inr (.inl ⟨a, hm, by rw [hp, List.head?_cons], ha⟩)
  · rw [State.readReg_status]
    split <;> exact .inr (.inr (.inr (by constructor <;> rfl)))
  · exact .inr (.inr (.inl ⟨hm, by rw [hp, List.head?_cons], ht⟩))

/-- From `s` to `t` a command completed (R209): SEQ and DONE say so, and what no command writes stays as it is. -/
structure State.CompletesTo (s t : State) : Prop where
  seq : t.seq = .idle
  done : t.done = true
  cfg : t.cfg = s.cfg
  ovr : t.ovr = s.ovr
  srcLen : t.srcLen = s.srcLen
  cmdId : t.cmdId = s.cmdId
  height : t.height = s.height
  src : t.src = s.src
  program : t.program = s.program
  turns : t.turns = s.turns
  transcript : t.transcript = s.transcript
  draws : t.draws = s.draws

theorem completeWord_completes {w : Word} {s t : State} (h : completeWord w s = .next t) : s.CompletesTo t := by
  rcases completeWord_next h with ⟨i, u, -, hu, rfl⟩ | ⟨e, rfl⟩
  · have keeps := commandBody_frame hu
    exact ⟨rfl, rfl, keeps.cfg, keeps.ovr, keeps.srcLen, keeps.cmdId, keeps.height, keeps.src, keeps.program,
      keeps.turns, keeps.transcript, keeps.draws⟩
  · constructor <;> rfl

theorem State.hostAccess_frame {s t : State} {a : HostAccess} (h : s.hostAccess a = .next t) :
    s.KeepsAllButHostFields t :=
  have ⟨_, _, hperf⟩ := State.hostAccess_next h
  State.performAccess_frame hperf

/-- What a host access can do to OVR: nothing, clear it by a STATUS write, or set it by a write that is dropped. -/
theorem State.hostAccess_ovr {s t : State} {a : HostAccess} (h : s.hostAccess a = .next t) :
    t.ovr = s.ovr ∨
    (t.ovr = false ∧ ∃ v, a = .regWrite 0 4 v ∧ v.getLsbD 8 = true) ∨
    (t.ovr = true ∧ s.busy = true ∧
      ((∃ n v, a = .regWrite n 4 v ∧ 1 ≤ n ∧ n ≤ 4) ∨ ∃ x b, a = .memWrite .src x 1 b)) := by
  obtain ⟨hwidth, -, hperf⟩ := State.hostAccess_next h
  rcases State.performAccess_next hperf with rfl | ⟨_, rfl⟩ | ⟨_, -, rfl⟩ | ⟨width, v, rfl, h8, rfl⟩ |
    ⟨hb, rfl, ⟨n, width, v, rfl, h1, h4⟩ | ⟨x, width, b, rfl⟩⟩ |
    ⟨-, ⟨_, _, -, rfl⟩ | ⟨_, _, -, rfl⟩ | ⟨_, _, -, rfl⟩ | ⟨_, _, -, rfl⟩ | ⟨_, _, _, -, rfl⟩⟩
  case inr.inr.inr.inl =>
    obtain rfl : width = 4 := eq_of_beq hwidth
    exact .inr (.inl ⟨rfl, v, rfl, h8⟩)
  case inr.inr.inr.inr.inl.inl =>
    obtain rfl : width = 4 := eq_of_beq hwidth
    exact .inr (.inr ⟨rfl, hb, .inl ⟨n, v, rfl, h1, h4⟩⟩)
  case inr.inr.inr.inr.inl.inr =>
    obtain rfl : width = 1 := eq_of_beq hwidth
    exact .inr (.inr ⟨rfl, hb, .inr ⟨x, b, rfl⟩⟩)
  all_goals exact .inl rfl

/-- A host access that changes SRC is a write of an SRC byte while idle (R52, R235). -/
theorem State.hostAccess_src {s t : State} {a : HostAccess} (h : s.hostAccess a = .next t) :
    t.src = s.src ∨ (s.seq = .idle ∧ ∃ x b, a = .memWrite .src x 1 b) := by
  obtain ⟨hwidth, -, hperf⟩ := State.hostAccess_next h
  rcases State.performAccess_next hperf with rfl | ⟨_, rfl⟩ | ⟨_, -, rfl⟩ | ⟨_, _, -, -, rfl⟩ | ⟨-, rfl, -⟩ |
    ⟨hb, ⟨_, _, -, rfl⟩ | ⟨_, _, -, rfl⟩ | ⟨_, _, -, rfl⟩ | ⟨_, _, -, rfl⟩ | ⟨x, width, b, rfl, rfl⟩⟩
  case inr.inr.inr.inr.inr.inr.inr.inr.inr =>
    obtain rfl : width = 1 := eq_of_beq hwidth
    exact .inr ⟨State.busy_eq_false_iff.mp hb, x, b, rfl⟩
  all_goals exact .inl rfl

/-- A command that changes DST is one of the three that store (R63). -/
theorem commandBody_dst {i : Instr} {s u : State} (h : commandBody i s = .ok u) :
    u.dst = s.dst ∨ i = .build ∨ i = .enc1 ∨ i = .enc4 := by
  cases i with
  | crc8 =>
    obtain ⟨_, -, -, -, rfl⟩ := crc8Command_ok h
    exact .inl rfl
  | parse =>
    obtain ⟨_, _, _, _, _, _, -, -, -, -, -, -, -, rfl⟩ := parseNotification_ok h
    exact .inl rfl
  | build | enc1 | enc4 => simp

/-- Settles O51: neither a command nor an access nor reset writes the parameters. -/
theorem parametersNeverChange : Obligations.ParametersNeverChange := by
  unfold Obligations.ParametersNeverChange
  intro s t h
  rcases step_next_block h with ⟨w, -, -, hw⟩ | ⟨a, -, -, ha⟩ | ⟨-, -, rfl⟩ | same
  · exact (completeWord_completes hw).cfg
  · exact (State.hostAccess_frame ha).cfg
  · rfl
  · exact same.cfg

/-- Settles O52: of what a step can do, only a completion and reset write ERR. -/
theorem errWrittenOnlyAtCompletion : Obligations.ErrWrittenOnlyAtCompletion := by
  unfold Obligations.ErrWrittenOnlyAtCompletion
  intro s t h hne
  rcases step_next_block h with ⟨w, hm, hs, hw⟩ | ⟨a, -, -, ha⟩ | ⟨hm, hp, -⟩ | same
  · have done := completeWord_completes hw
    exact .inl ⟨hm, by rw [hs]; exact Sequencer.noConfusion, done.seq, done.done⟩
  · exact absurd (State.hostAccess_frame ha).err hne
  · exact .inr ⟨hm, hp⟩
  · exact absurd same.err hne

/-- Settles O53: only a host access and reset write OVR. -/
theorem ovrSetAndCleared : Obligations.OvrSetAndCleared := by
  unfold Obligations.OvrSetAndCleared
  intro s t h
  by_cases heq : t.ovr = s.ovr
  · exact ⟨fun hs ht => by simp [heq, hs] at ht, fun hs ht => by simp [heq, hs] at ht⟩
  rcases step_next_block h with ⟨w, -, -, hw⟩ | ⟨a, hm, hp, ha⟩ | ⟨hm, hp, rfl⟩ | same
  · exact absurd (completeWord_completes hw).ovr heq
  · rcases (State.hostAccess_ovr ha).resolve_left heq with ⟨hclear, v, rfl, h8⟩ | ⟨hset, hb, hcause⟩
    · exact ⟨fun _ ht => by simp [hclear] at ht, fun _ _ => ⟨hm, .inr ⟨v, hp, h8⟩⟩⟩
    · refine ⟨fun _ _ => ⟨hm, State.busy_iff_seq_ne_idle.mp hb, ?_⟩, fun _ ht => by simp [hset] at ht⟩
      rcases hcause with ⟨n, v, rfl, hn⟩ | ⟨x, b, rfl⟩
      · exact .inl ⟨n, v, hp, hn⟩
      · exact .inr ⟨x, b, hp⟩
  · exact ⟨fun _ ht => by simp at ht, fun _ _ => ⟨hm, .inl hp⟩⟩
  · exact absurd same.ovr heq

/-- Settles O54: a command keeps SRC, and an access that changes it is a write while idle. -/
theorem srcWrittenOnlyByHost : Obligations.SrcWrittenOnlyByHost := by
  unfold Obligations.SrcWrittenOnlyByHost
  intro s t h hne
  rcases step_next_block h with ⟨w, -, -, hw⟩ | ⟨a, hm, hp, ha⟩ | ⟨hm, hp, -⟩ | same
  · exact absurd (completeWord_completes hw).src hne
  · obtain ⟨hidle, x, b, rfl⟩ := (State.hostAccess_src ha).resolve_left hne
    exact ⟨hm, .inr ⟨hidle, x, b, hp⟩⟩
  · exact ⟨hm, .inl hp⟩
  · exact absurd same.src hne

/-- Settles O55: a failed or illegal command keeps DST, and a successful one that changes it is one that stores. -/
theorem dstWrittenOnlyByStores : Obligations.DstWrittenOnlyByStores := by
  unfold Obligations.DstWrittenOnlyByStores
  intro s t h hne
  rcases step_next_block h with ⟨w, hm, hs, hw⟩ | ⟨a, -, -, ha⟩ | ⟨hm, hp, -⟩ | same
  · rcases completeWord_next hw with ⟨i, u, hd, hu, rfl⟩ | ⟨e, rfl⟩
    · refine .inr ⟨hm, rfl, w, hs, ?_⟩
      rcases (commandBody_dst hu).resolve_left hne with rfl | rfl | rfl
      · exact .inl hd
      · exact .inr (.inl hd)
      · exact .inr (.inr hd)
    · exact absurd rfl hne
  · exact absurd (State.hostAccess_frame ha).dst hne
  · exact .inl ⟨hm, hp⟩
  · exact absurd same.dst hne

end Sys2Proof.Machine

/-! ## Proofs: the block's turn, the register port and the reset values (R21 to R37, R47, R51) -/

namespace Sys2Proof.Machine

/-! ### The block's turn -/

/-- A pending word is completed next, unless the host's turn is listed first (R60, R233). -/
theorem State.mover_of_pending {s : State} {w : Word} (ht : s.turns = [] ∨ s.turns.head? = some .block)
    (hs : s.seq = .pending w) : s.mover = .block := by
  rcases ht with ht | ht
  · rw [State.mover, ht]
    exact if_pos (State.busy_of_pending hs)
  · obtain ⟨rest, hrest⟩ := List.head?_eq_some_iff.mp ht
    rw [State.mover, hrest]

/-- A step of the block with a command's word pending. -/
theorem step_command {s : State} {w : Word} {i : Instr} (hm : s.mover = .block) (hs : s.seq = .pending w)
    (hd : decode w = .command i) : step s = exec i s.endTurn := by
  rw [step_block hm, blockTurn_pending (s := s.endTurn) hs, completeWord_command hd]

theorem decode_encode (i : Instr) : decode (encode i) = .command i := by
  cases i <;> decide

theorem State.withFetchWord_mover (s : State) (nbits w : Nat) : (s.withFetchWord nbits w).mover = .block := by
  cases ht : s.turns with
  | nil => simp [State.withFetchWord, State.mover, ht, State.busy, State.issue]
  | cons a rest => cases a <;> simp [State.withFetchWord, State.mover, ht]

/-- Settles O1: the block moves, and the pending word decodes to the command. -/
theorem stepRunsDecodedCommand : Obligations.StepRunsDecodedCommand := by
  unfold Obligations.StepRunsDecodedCommand
  intro s w i ht hs hd _
  exact step_command (State.mover_of_pending ht hs) hs hd

/-- Settles O2: the issue leaves the command's own word pending, with the block's turn next. -/
theorem fetchWordRunsNext : Obligations.FetchWordRunsNext := by
  unfold Obligations.FetchWordRunsNext
  intro s i
  have hword : BitVec.ofNat 32 ((encode i).toNat % 2 ^ 32) = encode i := by
    rw [Nat.mod_eq_of_lt (encode i).isLt, BitVec.ofNat_toNat, BitVec.setWidth_eq]
  have hseq : (s.withFetchWord 32 (encode i).toNat).seq = .pending (encode i) := congrArg Sequencer.pending hword
  have hstate : (s.withFetchWord 32 (encode i).toNat).endTurn = { s with
      seq := .pending (encode i)
      done := false
      turns := (s.withFetchWord 32 (encode i).toNat).turns.tail } := by
    rw [State.endTurn, ← hseq]
    rfl
  exact ⟨_, by rw [step_command (s.withFetchWord_mover _ _) hseq (decode_encode i), hstate]⟩

/-! ### Register writes -/

/-- Settles O31: a CMD write is an issue, unless the block is busy. -/
theorem cmdWriteIssues : Obligations.CmdWriteIssues := by
  unfold Obligations.CmdWriteIssues
  intro s w hm hp
  rw [step_regWrite hm (by decide) hp]
  refine ⟨fun hidle => ?_, fun hbusy => ?_⟩
  · have hb : s.busy = false := State.busy_eq_false_iff.mpr hidle
    exact congrArg _ (State.unlessBusy_idle (s := s.endTurn.endHostOp) hb)
  · have hb : s.busy = true := State.busy_iff_seq_ne_idle.mpr hbusy
    exact congrArg _ (State.unlessBusy_busy (s := s.endTurn.endHostOp) hb)

/-- Settles O32: each operand register takes the low bits of its width. -/
theorem operandWritesStoreUsedBits : Obligations.OperandWritesStoreUsedBits := by
  unfold Obligations.OperandWritesStoreUsedBits
  intro s v hm hidle
  have hb : s.endTurn.endHostOp.busy = false := State.busy_eq_false_iff.mpr hidle
  refine ⟨fun hp => ?srcLen, fun hp => ?cmdId, fun hp => ?height⟩
  case srcLen =>
    rw [step_regWrite hm (by decide) hp]
    exact congrArg _ (State.unlessBusy_idle hb)
  case cmdId =>
    rw [step_regWrite hm (by decide) hp, ← BitVec.setWidth_eq_extractLsb' (by decide)]
    exact congrArg _ (State.unlessBusy_idle hb)
  case height =>
    rw [step_regWrite hm (by decide) hp, ← BitVec.setWidth_eq_extractLsb' (by decide)]
    exact congrArg _ (State.unlessBusy_idle hb)

theorem State.writeReg_status (s : State) (v : Word) :
    s.writeReg 0 v = s.setOvr (if v.getLsbD 8 then false else s.ovr) := by
  have h : s.writeReg 0 v = if v.getLsbD 8 then s.setOvr false else s := rfl
  rw [h]
  split <;> rfl

/-- Settles O34: bit 8 alone decides, and OVR alone is written. -/
theorem statusWriteClearsOvrOnly : Obligations.StatusWriteClearsOvrOnly := by
  unfold Obligations.StatusWriteClearsOvrOnly
  intro s v hm hp
  rw [step_regWrite hm (by decide) hp, State.writeReg_status]
  rfl

/-- A host write to a register number from 5 to 15 takes the host to its next operation (R21, R35). -/
theorem step_regWrite_ignored {s : State} {n : Nat} {v : Word} (hm : s.mover = .host) (h5 : 5 ≤ n) (h15 : n < 16)
    (hp : s.program.head? = some (.access (.regWrite n 4 v))) : step s = .next s.endTurn.endHostOp := by
  rw [step_regWrite hm h15 hp, State.writeReg_of_ge h5]

/-- Settles O36: the numbers from 5 up ignore writes. -/
theorem readOnlyRegistersIgnoreWrites : Obligations.ReadOnlyRegistersIgnoreWrites := by
  unfold Obligations.ReadOnlyRegistersIgnoreWrites
  intro s n v hm h5 h12 hp
  exact step_regWrite_ignored hm h5 (by omega) hp

/-! ### Register reads -/

theorem State.readReg_unallocated {s : State} {n : Nat} (h : 12 < n) : s.readReg n = s.observe (.reg n 0) := by
  rw [State.readReg, regAt_of_gt h]

/-- Outside the hazard of R236 a read returns what the register holds. -/
theorem State.readReg_of_regAt {s : State} {n : Nat} {r : RegName} (hr : regAt n = some r)
    (hsafe : s.busy = false ∨ isResultReg r = false) : s.readReg n = s.observe (.reg n (s.regValue r)) := by
  rw [State.readReg, hr]
  exact if_neg (by rcases hsafe with h | h <;> simp [h])

/-- Settles O37: no register stands at the three numbers. -/
theorem unallocatedRegisters : Obligations.UnallocatedRegisters := by
  unfold Obligations.UnallocatedRegisters
  intro s n hm hn
  refine ⟨fun hp => ?_, fun v hp => step_regWrite_ignored hm (by omega) (by omega) hp⟩
  rw [step_regRead hm (by omega) hp, State.readReg_unallocated (by omega)]
  rfl

/-- A host read of a register outside the hazard of R236. -/
theorem step_regRead_value {s : State} {r : RegName} (hm : s.mover = .host)
    (hsafe : s.seq = .idle ∨ isResultReg r = false)
    (hp : s.program.head? = some (.access (.regRead (regNumber r) 4))) :
    step s = .next (s.endTurn.endHostOp.observe (.reg (regNumber r) (s.regValue r))) := by
  have hlt : regNumber r < 16 := by cases r <;> decide
  have hvalue : s.endTurn.endHostOp.regValue r = s.regValue r := by cases r <;> rfl
  have hsafe' : s.endTurn.endHostOp.busy = false ∨ isResultReg r = false := hsafe.imp_left State.busy_eq_false_iff.mpr
  rw [step_regRead hm hlt hp, State.readReg_of_regAt (regAt_regNumber r) hsafe', hvalue]

/-- Settles O38: each listed pair is a register's number and what the register holds. -/
theorem registerReads : Obligations.RegisterReads := by
  unfold Obligations.RegisterReads
  intro s n v hm hp hlist
  have hreg : ∃ r, n = regNumber r ∧ v = s.regValue r ∧ (s.seq = .idle ∨ isResultReg r = false) := by
    simp only [List.mem_cons, Prod.mk.injEq, List.not_mem_nil, or_false] at hlist
    rcases hlist with (h | h | h | h | h) | ⟨hidle, h | h | h | h | h | h | h | h⟩
    · exact ⟨.status, h.1, h.2, .inr rfl⟩
    · exact ⟨.cmd, h.1, h.2, .inr rfl⟩
    · exact ⟨.srcLen, h.1, h.2, .inr rfl⟩
    · exact ⟨.cmdId, h.1, h.2, .inr rfl⟩
    · exact ⟨.height, h.1, h.2, .inr rfl⟩
    · exact ⟨.crc, h.1, h.2, .inl hidle⟩
    · exact ⟨.outLen, h.1, h.2, .inl hidle⟩
    · exact ⟨.outHeight, h.1, h.2, .inl hidle⟩
    · exact ⟨.pId, h.1, h.2, .inl hidle⟩
    · exact ⟨.pLen, h.1, h.2, .inl hidle⟩
    · exact ⟨.pOff, h.1, h.2, .inl hidle⟩
    · exact ⟨.pRsvd, h.1, h.2, .inl hidle⟩
    · exact ⟨.pFlags, h.1, h.2, .inl hidle⟩
  obtain ⟨r, rfl, rfl, hsafe⟩ := hreg
  exact step_regRead_value hm hsafe hp

/-! ### STATUS, reset, and an agent with nothing to do -/

/-- Settles O35: one lemma a field of the STATUS word. -/
theorem statusWordFields : Obligations.StatusWordFields := by
  unfold Obligations.StatusWordFields
  refine ⟨fun s => ⟨?_, s.statusWord_done, s.statusWord_low_reserved, s.statusWord_err, s.statusWord_ovr,
    s.statusWord_high_reserved⟩, rfl, rfl, rfl, rfl, rfl, rfl, rfl⟩
  rw [State.statusWord_busy, State.busy_iff_seq_ne_idle]

theorem State.resetWith_statusWord (cfg : Config) : (State.resetWith cfg).statusWord = 0 := by
  simp [State.statusWord, State.resetWith, State.busy, ErrCode.code]

/-- Settles O47: every value is the one the reset record gives; an empty memory is `undef` everywhere. -/
theorem resetValues : Obligations.ResetValues := by
  unfold Obligations.ResetValues
  refine ⟨fun cfg => ?_, Config.installed, rfl⟩
  exact ⟨rfl, rfl, State.resetWith_statusWord cfg, rfl, rfl, rfl, rfl, rfl, rfl, rfl, rfl, rfl, rfl, rfl, rfl, rfl, rfl,
    fun _ => ⟨rfl, rfl⟩⟩

theorem hostTurn_nil {s : State} (h : s.program = []) : hostTurn s = .next s := by
  rw [hostTurn, h]

/-- Settles O48: an idle block's turn and an empty program's turn end at once. -/
theorem nothingToDoChangesNothing : Obligations.NothingToDoChangesNothing := by
  unfold Obligations.NothingToDoChangesNothing
  intro s
  refine ⟨fun hm hidle => ?_, fun hm hp => ?_⟩
  · rw [step_block hm, blockTurn_idle (s := s.endTurn) hidle]
    rfl
  · rw [step_host hm, hostTurn_nil (s := s.endTurn) hp]
    rfl

end Sys2Proof.Machine

/-! ## Proofs: the memory port, the frame of a host access, widths and ranges, polling (R51 to R54, R59, R61, R75) -/

namespace Sys2Proof.Machine

/-! ### Memory accesses -/

/-- The memory of a name (R40, R41). -/
def State.memory (s : State) : MemName → Memory
  | .src => s.src
  | .dst => s.dst

/-- Outside the hazard of R236 a memory read returns the byte that stands there, or is UNINIT. -/
theorem State.readMem_of_safe {s : State} {m : MemName} {a : Nat} (hsafe : m = .src ∨ s.seq = .idle) :
    s.readMem m a = s.returnByte m a ((s.memory m).read a) := by
  cases m with
  | src => rfl
  | dst =>
    have hidle : s.seq = .idle := hsafe.resolve_left MemName.noConfusion
    exact if_neg (by simp [State.busy_eq_false_iff.mpr hidle])

/-- A host read of a memory, in range and outside the hazard of R236. -/
theorem step_memRead_of_safe {s : State} {m : MemName} {a : Nat} (hm : s.mover = .host) (ha : a < s.cfg.size m)
    (hsafe : m = .src ∨ s.seq = .idle) (hp : s.program.head? = some (.access (.memRead m a 1))) :
    step s = s.endTurn.endHostOp.returnByte m a ((s.memory m).read a) := by
  rw [step_memRead hm ha hp, State.readMem_of_safe (by simpa using hsafe)]
  cases m <;> rfl

/-- A host write to SRC, in range and while idle. -/
theorem step_srcWrite_idle {s : State} {a : Nat} {b : Byte} (hm : s.mover = .host) (ha : a < s.cfg.srcSize)
    (hidle : s.seq = .idle) (hp : s.program.head? = some (.access (.memWrite .src a 1 b))) :
    step s = .next (s.endTurn.endHostOp.setSrcByte a b) := by
  have hb : s.endTurn.endHostOp.busy = false := State.busy_eq_false_iff.mpr hidle
  rw [step_memWrite hm ha hp]
  exact congrArg _ (State.unlessBusy_idle hb)

/-- A host write to SRC, in range and while busy. -/
theorem step_srcWrite_busy {s : State} {a : Nat} {b : Byte} (hm : s.mover = .host) (ha : a < s.cfg.srcSize)
    (hbusy : s.seq ≠ .idle) (hp : s.program.head? = some (.access (.memWrite .src a 1 b))) :
    step s = .next (s.endTurn.endHostOp.setOvr true) := by
  have hb : s.endTurn.endHostOp.busy = true := State.busy_iff_seq_ne_idle.mpr hbusy
  rw [step_memWrite hm ha hp]
  exact congrArg _ (State.unlessBusy_busy hb)

/-- Settles O43: a read is decided by the byte that stands there, an SRC write by BUSY. -/
theorem hostMemoryAccess : Obligations.HostMemoryAccess := by
  unfold Obligations.HostMemoryAccess
  intro s hm
  refine ⟨fun m a b ha hsafe hread hp => ?defined, fun m a ha hsafe hread hp => ?undefined,
    fun a b ha hidle hp => ?srcIdle, fun a b ha hbusy hp => step_srcWrite_busy hm ha hbusy hp,
    fun a b ha hp => step_memWrite hm ha hp⟩
  case defined =>
    have hbyte : (s.memory m).read a = some b := hread
    rw [step_memRead_of_safe hm ha hsafe hp, hbyte]
    rfl
  case undefined =>
    have hundef : (s.memory m).read a = none := hread
    rw [step_memRead_of_safe hm ha hsafe hp, hundef]
    rfl
  case srcIdle =>
    have hsrc : ∀ x, (s.endTurn.endHostOp.setSrcByte a b).src.read x = if x = a then some b else s.src.read x :=
      s.src.read_write a b
    exact ⟨_, step_srcWrite_idle hm ha hidle hp, rfl, by rw [hsrc, if_pos rfl], fun x hx => by rw [hsrc, if_neg hx]⟩

/-! ### The frame of a host access -/

/-- The kept fields, as one equation between the states. -/
theorem State.KeepsAllButHostFields.eq_update {s t : State} (h : s.KeepsAllButHostFields t) :
    t = { s with
      seq := t.seq
      done := t.done
      ovr := t.ovr
      srcLen := t.srcLen
      cmdId := t.cmdId
      height := t.height
      src := t.src
      transcript := t.transcript
      draws := t.draws } := by
  cases t
  obtain ⟨rfl, rfl, rfl, rfl, rfl, rfl, rfl, rfl, rfl, rfl, rfl, rfl, rfl, rfl⟩ := h
  rfl

/-- A host access that changes SEQ, DONE or an operand register is a write to that register's number while idle (R23 to
R26, R235). -/
theorem State.hostAccess_registers {s t : State} {a : HostAccess} (h : s.hostAccess a = .next t) :
    ((t.seq ≠ s.seq ∨ t.done ≠ s.done) → s.seq = .idle ∧ ∃ w, a = .regWrite 1 4 w) ∧
    (t.srcLen ≠ s.srcLen → s.seq = .idle ∧ ∃ v, a = .regWrite 2 4 v) ∧
    (t.cmdId ≠ s.cmdId → s.seq = .idle ∧ ∃ v, a = .regWrite 3 4 v) ∧
    (t.height ≠ s.height → s.seq = .idle ∧ ∃ v, a = .regWrite 4 4 v) := by
  obtain ⟨hwidth, -, hperf⟩ := State.hostAccess_next h
  rcases State.performAccess_next hperf with rfl | ⟨_, rfl⟩ | ⟨_, -, rfl⟩ | ⟨_, _, -, -, rfl⟩ | ⟨-, rfl, -⟩ |
    ⟨hb, hwrite⟩
  case inr.inr.inr.inr.inr =>
    have hidle : s.seq = .idle := State.busy_eq_false_iff.mp hb
    rcases hwrite with ⟨width, v, rfl, rfl⟩ | ⟨width, v, rfl, rfl⟩ | ⟨width, v, rfl, rfl⟩ | ⟨width, v, rfl, rfl⟩ |
      ⟨_, _, _, -, rfl⟩
    case inr.inr.inr.inr => simp
    all_goals obtain rfl : width = 4 := eq_of_beq hwidth
    · exact ⟨fun _ => ⟨hidle, v, rfl⟩, by simp, by simp, by simp⟩
    · exact ⟨by simp, fun _ => ⟨hidle, v, rfl⟩, by simp, by simp⟩
    · exact ⟨by simp, by simp, fun _ => ⟨hidle, v, rfl⟩, by simp⟩
    · exact ⟨by simp, by simp, by simp, fun _ => ⟨hidle, v, rfl⟩⟩
  all_goals simp

/-- A host access that returns a value to the host, or counts a draw, is a read (R51, R52). -/
theorem State.hostAccess_observed {s t : State} {a : HostAccess} (h : s.hostAccess a = .next t) :
    (t.transcript = s.transcript ∧ t.draws = s.draws) ∨ (∃ n, a = .regRead n 4) ∨ ∃ m x, a = .memRead m x 1 := by
  obtain ⟨hwidth, -, hperf⟩ := State.hostAccess_next h
  cases a with
  | regRead n width =>
    obtain rfl : width = 4 := eq_of_beq hwidth
    exact .inr (.inl ⟨n, rfl⟩)
  | memRead m x width =>
    obtain rfl : width = 1 := eq_of_beq hwidth
    exact .inr (.inr ⟨m, x, rfl⟩)
  | regWrite n width v =>
    obtain rfl : s.writeReg n v = t := Host.Outcome.next.inj hperf
    rcases s.writeReg_cases n v with hv | ⟨-, -, hv⟩ | ⟨-, -, -, hv⟩ | ⟨-, ⟨-, hv⟩ | ⟨-, hv⟩ | ⟨-, hv⟩ | ⟨-, hv⟩⟩ <;>
      exact .inl (by rw [hv]; exact ⟨rfl, rfl⟩)
  | memWrite m x width b =>
    obtain rfl : s.writeMem m x b = t := Host.Outcome.next.inj hperf
    rcases s.writeMem_cases m x b with ⟨-, hv⟩ | ⟨-, -, hv⟩ | ⟨-, -, hv⟩ <;>
      exact .inl (by rw [hv]; exact ⟨rfl, rfl⟩)

/-- Settles O44: what an access keeps, and the access behind each change. -/
theorem hostAccessFrame : Obligations.HostAccessFrame := by
  unfold Obligations.HostAccessFrame
  intro s t a hm hp h
  have ha : s.endTurn.endHostOp.hostAccess a = .next t := by rw [← step_access hm hp, h]
  obtain ⟨hissue, hsrcLen, hcmdId, hheight⟩ := State.hostAccess_registers ha
  refine ⟨(State.hostAccess_frame ha).eq_update, hissue, hsrcLen, hcmdId, hheight, ?src, ?observed⟩
  case src => exact (State.hostAccess_src ha).resolve_left
  case observed =>
    intro hne
    exact (State.hostAccess_observed ha).resolve_left fun ⟨htranscript, hdraws⟩ => hne.elim (· htranscript) (· hdraws)

/-! ### Widths and ranges -/

theorem State.returnByte_ne_refused (s : State) (m : MemName) (a : Nat) (byte : Option Byte) (r : Refusal) :
    s.returnByte m a byte ≠ .refused r := by
  intro h
  cases byte <;> cases h

/-- An access performed has a meaning: only the check of its width refuses one (R53). -/
theorem State.performAccess_ne_refused (s : State) (a : HostAccess) (r : Refusal) : s.performAccess a ≠ .refused r := by
  intro h
  cases a with
  | regRead | regWrite | memWrite => cases h
  | memRead m x =>
    cases m with
    | src => exact s.returnByte_ne_refused .src x _ r h
    | dst =>
      simp only [State.performAccess, State.readMem] at h
      split at h
      · cases h
      · exact s.returnByte_ne_refused .dst x _ r h

theorem State.hostAccess_refused_iff {s : State} {a : HostAccess} :
    s.hostAccess a = .refused .accessWidth ↔ a.widthOk = false := by
  refine ⟨fun h => ?_, fun hw => if_pos hw⟩
  by_contra hw
  rw [State.hostAccess, if_neg hw] at h
  split at h
  · cases h
  · exact s.performAccess_ne_refused a _ h

theorem State.hostAccess_outOfRange {s : State} {a : HostAccess} (hw : a.widthOk = true)
    (hr : a.inRange s.cfg = false) : s.hostAccess a = .fault .hostOutOfRange := by
  simp [State.hostAccess, hw, hr]

/-- A step of the host with an access at the head of its program, by its width (R53). -/
theorem step_refused_iff {s : State} {a : HostAccess} (hm : s.mover = .host)
    (hp : s.program.head? = some (.access a)) : step s = .refused .accessWidth ↔ a.widthOk = false := by
  rw [step_access hm hp, State.hostAccess_refused_iff]

/-- A step of the host with an access of a legal width, but out of range (R54). -/
theorem step_outOfRange {s : State} {a : HostAccess} (hm : s.mover = .host)
    (hp : s.program.head? = some (.access a)) (hw : a.widthOk = true) (hr : a.inRange s.cfg = false) :
    step s = .fault .hostOutOfRange := by
  rw [step_access hm hp, State.hostAccess_outOfRange hw (by simpa using hr)]

/-- Settles O41: the check of the width is the one that refuses, and it comes first. -/
theorem otherWidthsAreRefused : Obligations.OtherWidthsAreRefused := by
  unfold Obligations.OtherWidthsAreRefused
  intro s width hm
  exact ⟨fun n hp => (step_refused_iff hm hp).trans beq_eq_false_iff_ne,
    fun n v hp => (step_refused_iff hm hp).trans beq_eq_false_iff_ne,
    fun m a hp => (step_refused_iff hm hp).trans beq_eq_false_iff_ne,
    fun m a b hp => (step_refused_iff hm hp).trans beq_eq_false_iff_ne⟩

/-- Settles O42: each access has a legal width and fails the check of its range. -/
theorem outOfRangeIsStuck : Obligations.OutOfRangeIsStuck := by
  unfold Obligations.OutOfRangeIsStuck
  intro s hm
  have beyond : ∀ {bound x : Nat}, bound ≤ x → decide (x < bound) = false := fun h => decide_eq_false (Nat.not_lt.mpr h)
  exact ⟨fun n hn hp => step_outOfRange hm hp rfl (beyond hn), fun n v hn hp => step_outOfRange hm hp rfl (beyond hn),
    fun a ha hp => step_outOfRange hm hp rfl (beyond ha), fun a b ha hp => step_outOfRange hm hp rfl (beyond ha),
    fun a ha hp => step_outOfRange hm hp rfl (beyond ha), fun a b ha hp => step_outOfRange hm hp rfl (beyond ha)⟩

/-! ### Polling -/

/-- A step of the host with an operation left. -/
theorem step_hostOperation {s : State} {op : HostOp} (hm : s.mover = .host) (hp : s.program.head? = some op) :
    step s = s.endTurn.hostOperation op := by
  obtain ⟨rest, hrest⟩ := List.head?_eq_some_iff.mp hp
  rw [step_host hm, hostTurn, State.endTurn_program, hrest]

/-- A poll reads STATUS, and goes on to the next operation when the block is idle (R75). -/
theorem State.hostOperation_wait (s : State) : s.hostOperation .wait =
    .next (if s.busy then s.observe (.reg 0 s.statusWord) else (s.observe (.reg 0 s.statusWord)).endHostOp) := by
  rw [State.hostOperation, State.statusWord_busy, State.readReg_status]

/-- Settles O45: bit 0 of the value read is BUSY. -/
theorem waitPollsStatus : Obligations.WaitPollsStatus := by
  unfold Obligations.WaitPollsStatus
  intro s hm hp
  rw [step_hostOperation hm hp, State.hostOperation_wait, State.endTurn_busy]
  by_cases hidle : s.seq = .idle
  · rw [State.busy_eq_false_iff.mpr hidle, if_pos hidle]
    rfl
  · rw [State.busy_iff_seq_ne_idle.mpr hidle, if_neg hidle]
    rfl

end Sys2Proof.Machine

/-! ## Proofs: the command word, its completion, and the CRC byte of a frame (R70 to R72, R78, R123, R202, R209) -/

namespace Sys2Proof.Machine

/-! ### The command word -/

/-- The decoder answers a command for that command's own word and no other (R71). -/
theorem decode_eq_command_iff {w : Word} {i : Instr} : decode w = .command i ↔ w = encode i := by
  refine ⟨fun hd => ?_, fun hw => hw ▸ decode_encode i⟩
  by_cases h : w.toNat < 16
  · rw [decode_of_lt h] at hd
    apply BitVec.eq_of_toNat_eq
    split at hd <;> cases hd <;> assumption
  · rw [decode_of_ge (Nat.not_lt.mp h)] at hd
    cases hd

/-- The words outside 1 to 5, as R71 lists them. -/
theorem decode_illegal_iff_eq_zero_or_ge (w : Word) :
    (∃ why, decode w = .illegal why) ↔ w = 0 ∨ 6 ≤ w.toNat := by
  have hzero : w = 0 ↔ w.toNat = 0 := BitVec.toNat_inj.symm
  rw [decode_illegal_iff, hzero]
  omega

theorem decode_illegal_iff_not_command (w : Word) :
    (∃ why, decode w = .illegal why) ↔ ¬ ∃ i, decode w = .command i := by
  cases decode w <;> simp

/-- The check of R72 passes for the words 1 to 5. -/
theorem cmdWordWf_iff (w : Word) : cmdWordWf w = true ↔ 1 ≤ w.toNat ∧ w.toNat ≤ 5 := by
  have hmbz : w.extractLsb' 4 28 = 0 ↔ w.toNat < 16 := mbzField_eq_zero_iff w
  have hop : (w.extractLsb' 0 4).toNat = w.toNat % 16 := opField_toNat w
  simp only [cmdWordWf, Bool.and_eq_true, beq_iff_eq, decide_eq_true_eq, hmbz, hop]
  omega

theorem decodeTableWord_eq_some_iff {w : Word} {i : Instr} :
    decodeTableWord 32 w.toNat = some i ↔ decode w = .command i := by
  rw [decodeTableWord, if_pos (Nat.le_refl 32), Nat.mod_eq_of_lt w.isLt, BitVec.ofNat_toNat, BitVec.setWidth_eq]
  cases decode w <;> simp

theorem decodeTableWord_encode (i : Instr) : decodeTableWord 32 (encode i).toNat = some i :=
  decodeTableWord_eq_some_iff.mpr (decode_encode i)

/-- A word outside R71's map spells no command in the table's numbering either (R72). -/
theorem decodeTableWord_eq_none {w : Word} (h : w = 0 ∨ 6 ≤ w.toNat) : decodeTableWord 32 w.toNat = none := by
  have hnone := (decode_illegal_iff_not_command w).mp ((decode_illegal_iff_eq_zero_or_ge w).mpr h)
  exact Option.eq_none_iff_forall_not_mem.mpr fun i hi => hnone ⟨i, decodeTableWord_eq_some_iff.mp hi⟩

/-- Settles O4: each command's only word is its encoding, and every other word is illegal. -/
theorem decodeIsTheOpcodeMap : Obligations.DecodeIsTheOpcodeMap := by
  unfold Obligations.DecodeIsTheOpcodeMap
  exact fun w => ⟨decode_eq_command_iff (i := .crc8), decode_eq_command_iff (i := .build),
    decode_eq_command_iff (i := .parse), decode_eq_command_iff (i := .enc1), decode_eq_command_iff (i := .enc4),
    decode_illegal_iff_eq_zero_or_ge w⟩

/-- Settles O5: the check and the decoder both single out the words 1 to 5. -/
theorem decodeEncodeAgree : Obligations.DecodeEncodeAgree := by
  unfold Obligations.DecodeEncodeAgree
  refine ⟨fun i _ => ⟨decode_encode i, decodeTableWord_encode i⟩, fun w i => decode_eq_command_iff.mp, fun w => ?_⟩
  calc cmdWordWf w = true
      ↔ 1 ≤ w.toNat ∧ w.toNat ≤ 5 := cmdWordWf_iff w
    _ ↔ ¬ ∃ why, decode w = .illegal why := by rw [decode_illegal_iff, not_not]
    _ ↔ ∃ i, decode w = .command i := by rw [decode_illegal_iff_not_command, not_not]

/-- Settles O3: five encodings, then zero and seven words from 6 up. -/
theorem commandWordsDecode : Obligations.CommandWordsDecode := by
  unfold Obligations.CommandWordsDecode
  have illegal (w : Word) (h : w = 0 ∨ 6 ≤ w.toNat) := decodeTableWord_eq_none h
  exact ⟨decodeTableWord_encode .crc8, decodeTableWord_encode .build, decodeTableWord_encode .parse,
    decodeTableWord_encode .enc1, decodeTableWord_encode .enc4, illegal 0x00000000 (by decide),
    illegal 0x00000006 (by decide), illegal 0x0000000F (by decide), illegal 0x00000010 (by decide),
    illegal 0x00000011 (by decide), illegal 0x00000105 (by decide), illegal 0x80000001 (by decide),
    illegal 0xFFFFFFFF (by decide)⟩

/-! ### Completion -/

/-- R202's condition on a word, written with shift and mask, is that the decoder finds no command. -/
theorem decode_illegal_of_fields {w : Word} (h : w >>> 4 ≠ 0 ∨ w &&& 0xF = 0 ∨ 6 ≤ (w &&& 0xF).toNat) :
    ∃ why, decode w = .illegal why := by
  have hmbz : w >>> 4 = 0 ↔ w.toNat / 16 = 0 := by
    rw [← BitVec.toNat_inj, BitVec.toNat_ushiftRight, Nat.shiftRight_eq_div_pow]; rfl
  have hop : (w &&& 0xF).toNat = w.toNat % 16 := by
    rw [BitVec.toNat_and]; exact Nat.and_two_pow_sub_one_eq_mod w.toNat 4
  have hopZero : w &&& 0xF = 0 ↔ w.toNat % 16 = 0 := by
    rw [← BitVec.toNat_inj, hop]; rfl
  rw [decode_illegal_iff]
  rw [ne_eq, hmbz, hopZero, hop] at h
  omega

/-- A step of the block with a word pending. -/
theorem step_pending {s : State} {w : Word} (hm : s.mover = .block) (hs : s.seq = .pending w) :
    step s = completeWord w s.endTurn := by
  rw [step_block hm, blockTurn_pending (s := s.endTurn) hs]

/-- A completion with a code other than E_OK has done nothing but record it (R200, R209). -/
theorem completeWord_next_of_error {w : Word} {s t : State} (h : completeWord w s = .next t) (ht : t.err ≠ .ok) :
    t = s.complete t.err := by
  rcases completeWord_next h with ⟨_, u, -, -, rfl⟩ | ⟨e, rfl⟩
  · exact absurd (State.complete_err u .ok) ht
  · rw [State.complete_err]

/-- Settles O6: the pending word decodes to no command. -/
theorem illegalWordCompletesIllegal : Obligations.IllegalWordCompletesIllegal := by
  unfold Obligations.IllegalWordCompletesIllegal
  intro s w ht hs hw
  obtain ⟨_, hd⟩ := decode_illegal_of_fields hw
  rw [step_pending (State.mover_of_pending ht hs) hs, completeWord_illegal hd]
  rfl

/-- Settles O27: the step is the completion of the pending word. -/
theorem completionIsPrecise : Obligations.CompletionIsPrecise := by
  unfold Obligations.CompletionIsPrecise
  intro s t w ht hs hstep
  rw [step_pending (State.mover_of_pending ht hs) hs] at hstep
  have done := completeWord_completes hstep
  refine ⟨⟨done.seq, done.done, done.ovr, done.srcLen, done.cmdId, done.height, done.src⟩,
    completeWord_next_of_error hstep, fun why hd => ?_⟩
  rw [completeWord_illegal hd] at hstep
  cases hstep
  rfl

/-! ### The CRC byte of a frame -/

/-- crc8 depends on a configuration's table alone (R100, R103). -/
theorem crc8_congr {cfg₁ cfg₂ : Config} (h : cfg₁.crc8Table = cfg₂.crc8Table) (data : List Byte) :
    crc8 cfg₁ data = crc8 cfg₂ data := by
  have hstep : crcStep cfg₁ = crcStep cfg₂ := by
    funext c b
    rw [crcStep, crcStep, h]
  rw [crc8, crc8, hstep]

/-- Two memories that agree on a range hold the same bytes there. -/
theorem Memory.holds_unique {m₁ m₂ : Memory} {n a : Nat} {p₁ p₂ : List Byte} (hl₁ : p₁.length = n)
    (hl₂ : p₂.length = n) (h₁ : m₁.holds a p₁) (h₂ : m₂.holds a p₂)
    (hm : ∀ i < n, m₁.read (a + i) = m₂.read (a + i)) : p₁ = p₂ := by
  have hrun := Memory.readRun_congr hm
  rw [Memory.readRun_of_holds hl₁ h₁, Memory.readRun_of_holds hl₂ h₂] at hrun
  exact Option.some.inj hrun

/-- Where a successful BUILD leaves its payload's CRC (R120, R123). -/
theorem exec_build_crc {s t : State} (h : exec .build s = .next t) (ht : t.err = .ok) :
    ∃ p, p.length = s.srcLen.toNat ∧ s.src.holds 0 p ∧ t.crc = crc8 s.cfg p ∧
      t.dst.read (6 + s.srcLen.toNat) = some (crc8 s.cfg p) := by
  obtain ⟨_, hu, rfl⟩ := exec_next_of_ok h ht
  obtain ⟨p, hl, -, -, -, hsrc, rfl⟩ := buildCommand_ok hu
  have hlen : p.length = s.srcLen.toNat := hl
  refine ⟨p, hlen, hsrc, rfl, ?_⟩
  rw [← hlen]
  exact (s.dst.read_writeFrame s.cfg s.cmdId p (by omega)).trans (commandFrame_crc s.cfg s.cmdId p)

/-- Settles O16: both payloads are the same bytes, and crc8 sees only them and the table. -/
theorem buildCrcIgnoresId : Obligations.BuildCrcIgnoresId := by
  unfold Obligations.BuildCrcIgnoresId
  intro s₁ s₂ t₁ t₂ htable hlen hsrc hexec₁ hexec₂ hok₁ hok₂
  obtain ⟨p₁, hl₁, hp₁, hcrc₁, hbyte₁⟩ := exec_build_crc hexec₁ hok₁
  obtain ⟨p₂, hl₂, hp₂, hcrc₂, hbyte₂⟩ := exec_build_crc hexec₂ hok₂
  rw [← hlen] at hl₂ hbyte₂
  obtain rfl : p₁ = p₂ := Memory.holds_unique hl₁ hl₂ hp₁ hp₂ fun i hi => by rw [Nat.zero_add]; exact hsrc i hi
  rw [← crc8_congr htable] at hcrc₂ hbyte₂
  exact ⟨hcrc₁.trans hcrc₂.symm, hcrc₁ ▸ hbyte₁, hcrc₁ ▸ hbyte₂⟩

end Sys2Proof.Machine

/-! ## Proofs: the laws of crc8 itself (R104) -/

namespace Sys2Proof.Machine

/-- One byte is one step from CRC_INIT, which is the identity of XOR. -/
theorem crc8_singleton (cfg : Config) (b : Byte) : crc8 cfg [b] = cfg.crc8Table[b.toFin] :=
  calc crc8 cfg ([] ++ [b])
    _ = crcStep cfg (crc8 cfg []) b := crc8_concat cfg [] b
    _ = cfg.crc8Table[b.toFin] := by simp [crcStep]

/-- Settles O8: crc8 of no byte, of one more byte, and of a single byte, of which 0x00 is an instance. -/
theorem crc8FoldLaws : Obligations.Crc8FoldLaws := by
  unfold Obligations.Crc8FoldLaws
  intro cfg
  exact ⟨crc8_nil cfg, crc8_singleton cfg, crc8_concat cfg, crc8_singleton cfg 0x00⟩

end Sys2Proof.Machine

/-! ## Proofs: PARSE inverts BUILD (R132), and what PARSE accepts (R124, R125, R130) -/

namespace Sys2Proof.Machine

/-! ### The round trip -/

/-- A trailer that is the payload's CRC and the footer sets all three flags (R129). -/
theorem trailerFlags_of_match (c : Byte) : trailerFlags c (some (c, 0xFF)) = 0b111 := by
  rw [trailerFlags, beq_self_eq_true, beq_self_eq_true]
  rfl

/-- PARSE of a Command Frame (R76) recovers the id, the length and the payload's CRC, with all three flags set. -/
theorem parseNotification_commandFrame {s : State} {id : Byte} {p : List Byte} (hm : p.length ≤ 65535)
    (hn : s.srcCount = 8 + p.length) (hs : s.srcCount ≤ s.cfg.srcSize)
    (hsrc : s.src.holds 0 (commandFrame s.cfg id p)) :
    parseNotification s =
      .ok ((s.storeCrc (crc8 s.cfg p)).storeParsed id (BitVec.ofNat 16 p.length) 0x00 0b111) := by
  obtain ⟨hbody, -⟩ := Memory.holds_append.mp hsrc
  obtain ⟨hhdr, hpay⟩ := Memory.holds_append.mp hbody
  have hread : ∀ a < 8 + p.length, s.src.read a = (commandFrame s.cfg id p)[a]? := fun a ha => by
    simpa using hsrc a (by rwa [commandFrame_length])
  have head : s.FrameHead (lenLo (BitVec.ofNat 16 p.length)) (lenHi (BitVec.ofNat 16 p.length)) :=
    ⟨hs, by omega, hhdr 0 (by simp), hhdr 1 (by simp), hhdr 4 (by simp), hhdr 5 (by simp)⟩
  have hfield : p.length =
      (lengthField (lenLo (BitVec.ofNat 16 p.length)) (lenHi (BitVec.ofNat 16 p.length))).toNat := by
    rw [lengthField_split, BitVec.toNat_ofNat, Nat.mod_eq_of_lt (by omega)]
  have htrailer : trailerBytes s s.srcCount p.length = .ok (some (crc8 s.cfg p, 0xFF)) :=
    trailerBytes_of_reads hn.ge ((hread _ (by omega)).trans (commandFrame_crc s.cfg id p))
      ((hread _ (by omega)).trans (commandFrame_footer s.cfg id p))
  rw [parseNotification_of_reads head hfield (by omega) (hhdr 2 (by simp)) (hhdr 3 (by simp)) hpay htrailer,
    lengthField_split, trailerFlags_of_match]

/-- What a successful BUILD leaves in DST: the Command Frame of CMD_ID and the payload SRC holds (R120). -/
theorem exec_build_frame {s t : State} (h : exec .build s = .next t) (ht : t.err = .ok) :
    ∃ p, p.length = s.srcLen.toNat ∧ p.length ≤ 65535 ∧ s.src.holds 0 p ∧
      t.dst.holds 0 (commandFrame s.cfg s.cmdId p) := by
  obtain ⟨_, hu, rfl⟩ := exec_next_of_ok h ht
  obtain ⟨p, hl, hm, -, -, hsrc, rfl⟩ := buildCommand_ok hu
  refine ⟨p, hl, hl ▸ hm, hsrc, fun i hi => ?_⟩
  rw [Nat.zero_add]
  exact s.dst.read_writeFrame s.cfg s.cmdId p (by rwa [commandFrame_length] at hi)

/-- Settles O19: the copied bytes are a Command Frame, and PARSE of a Command Frame recovers what BUILD was given. -/
theorem parseInvertsBuild : Obligations.ParseInvertsBuild := by
  unfold Obligations.ParseInvertsBuild
  intro s t u hexec hok hcfg hsize hlen hcopy
  obtain ⟨p, hl, hm, hp, hdst⟩ := exec_build_frame hexec hok
  have hsrc : u.src.holds 0 (commandFrame u.cfg s.cmdId p) := fun i hi => by
    rw [hcfg] at hi ⊢
    rw [hcopy _ (by rw [commandFrame_length] at hi; omega)]
    exact hdst i hi
  have hcount : u.srcCount = 8 + p.length := by rw [State.srcCount, hlen, hl]
  have hparse := parseNotification_commandFrame hm hcount (by rw [hcount, hl, hcfg]; exact hsize) hsrc
  refine ⟨_, exec_of_ok (i := .parse) hparse, rfl, rfl, ?len, rfl, ?payload, rfl, rfl, p, hl, hp, ?crc⟩
  case len =>
    show (BitVec.ofNat 16 p.length).toNat = s.srcLen.toNat
    rw [BitVec.toNat_ofNat, Nat.mod_eq_of_lt (by omega), hl]
  case payload =>
    intro i hi
    have hframe := hsrc (6 + i) (by rw [commandFrame_length]; omega)
    have hpayload := hp i (by omega)
    rw [Nat.zero_add] at hframe hpayload
    rw [hpayload, ← commandFrame_payload u.cfg s.cmdId p (by omega)]
    exact hframe
  case crc =>
    show crc8 u.cfg p = crc8 s.cfg p
    rw [hcfg]

/-! ### The verdict -/

/-- The raw buffer passes the checks of R124: in range, a good header, room for the length field and for the payload it
declares. No byte past the length field enters. -/
def State.ParseAccepts (s : State) : Prop :=
  ∃ lo hi, s.FrameHead lo hi ∧ 6 + (lengthField lo hi).toNat ≤ s.srcCount

/-- A defined byte has a value. -/
theorem State.srcDefined.read {s : State} {n i : Nat} (h : s.srcDefined n) (hi : i < n) :
    ∃ b, s.src.read i = some b := Option.isSome_iff_exists.mp (h i hi)

/-- The checks, written with the bytes a defined buffer holds. -/
theorem State.parseAccepts_iff {s : State} (hs : s.srcCount ≤ s.cfg.srcSize) (hdef : s.srcDefined s.srcCount) :
    s.ParseAccepts ↔ 6 ≤ s.srcCount ∧ s.src.read 0 = some 0x22 ∧ s.src.read 1 = some 0x21 ∧
      ∀ lo hi : Byte, s.src.read 4 = some lo → s.src.read 5 = some hi →
        6 + (lo.toNat + 256 * hi.toNat) ≤ s.srcCount := by
  simp only [State.ParseAccepts, ← lengthField_toNat]
  constructor
  · rintro ⟨lo, hi, head, hn⟩
    refine ⟨head.room, head.hdr0, head.hdr1, fun lo' hi' hlo hhi => ?_⟩
    obtain rfl : lo = lo' := Option.some.inj (head.lo.symm.trans hlo)
    obtain rfl : hi = hi' := Option.some.inj (head.hi.symm.trans hhi)
    exact hn
  · rintro ⟨h6, h0, h1, hlen⟩
    obtain ⟨lo, hlo⟩ := hdef.read (i := 4) (by omega)
    obtain ⟨hi, hhi⟩ := hdef.read (i := 5) (by omega)
    exact ⟨lo, hi, ⟨hs, h6, h0, h1, hlo, hhi⟩, hlen lo hi hlo hhi⟩

/-- Defined trailer bytes, or none, are read without a fault. -/
theorem trailerBytes_of_defined {s : State} {n : Nat} (hdef : s.srcDefined n) (len : Nat) :
    ∃ trailer, trailerBytes s n len = .ok trailer := by
  by_cases hroom : 8 + len ≤ n
  · obtain ⟨crcByte, hcrc⟩ := hdef.read (i := 6 + len) (by omega)
    obtain ⟨ftrByte, hftr⟩ := hdef.read (i := 7 + len) (by omega)
    exact ⟨_, trailerBytes_of_reads hroom hcrc hftr⟩
  · exact ⟨none, trailerBytes_short (Nat.not_le.mp hroom)⟩

/-- Past its last check PARSE of a defined buffer succeeds, whatever the trailer (R130). -/
theorem parseNotification_of_accepts {s : State} (hdef : s.srcDefined s.srcCount) (h : s.ParseAccepts) :
    ∃ u, parseNotification s = .ok u := by
  obtain ⟨lo, hi, head, hn⟩ := h
  have h6 := head.room
  obtain ⟨id, hid⟩ := hdef.read (i := 2) (by omega)
  obtain ⟨rsv, hrsv⟩ := hdef.read (i := 3) (by omega)
  obtain ⟨payload, hrun⟩ := Memory.readRun_of_defined (m := s.src) (n := (lengthField lo hi).toNat) (a := 6)
    fun i hi' => hdef (6 + i) (by omega)
  obtain ⟨hl, hpay⟩ := Memory.readRun_eq_some_iff.mp hrun
  obtain ⟨_, htrailer⟩ := trailerBytes_of_defined hdef payload.length
  exact ⟨_, parseNotification_of_reads head hl (by omega) hid hrsv hpay htrailer⟩

/-- PARSE of a defined buffer that fails a check reports a code of the source's Malformed (R125). -/
theorem parseNotification_of_not_accepts {s : State} (hs : s.srcCount ≤ s.cfg.srcSize)
    (hdef : s.srcDefined s.srcCount) (h : ¬ s.ParseAccepts) :
    ∃ e, e.malformed = true ∧ parseNotification s = .error (.error e) := by
  by_cases h2 : s.srcCount < 2
  · exact ⟨.short, rfl, parseNotification_short hs h2⟩
  obtain ⟨b0, h0⟩ := hdef.read (i := 0) (by omega)
  obtain ⟨b1, h1⟩ := hdef.read (i := 1) (by omega)
  by_cases hhdr : b0 ≠ 0x22 ∨ b1 ≠ 0x21
  · exact ⟨.header, rfl, parseNotification_of_header hs (Nat.not_lt.mp h2) h0 h1 hhdr⟩
  obtain ⟨rfl, rfl⟩ : b0 = 0x22 ∧ b1 = 0x21 := by simpa using hhdr
  by_cases h6 : s.srcCount < 6
  · exact ⟨.trunc, rfl, parseNotification_tooShort hs (Nat.not_lt.mp h2) h0 h1 h6⟩
  obtain ⟨lo, hlo⟩ := hdef.read (i := 4) (by omega)
  obtain ⟨hi, hhi⟩ := hdef.read (i := 5) (by omega)
  have head : s.FrameHead lo hi := ⟨hs, Nat.not_lt.mp h6, h0, h1, hlo, hhi⟩
  have hshort : s.srcCount < 6 + (lengthField lo hi).toNat := Nat.not_le.mp fun hn => h ⟨lo, hi, head, hn⟩
  exact ⟨.trunc, rfl, parseNotification_truncated head hshort⟩

/-- Settles O18: the checks pass and PARSE succeeds, or one fails and the code is malformed, which E_OK is not. -/
theorem parseVerdict : Obligations.ParseVerdict := by
  unfold Obligations.ParseVerdict
  intro s hs hdef
  have hiff := State.parseAccepts_iff hs hdef
  by_cases h : s.ParseAccepts
  · obtain ⟨_, hu⟩ := parseNotification_of_accepts hdef h
    exact ⟨_, exec_of_ok (i := .parse) hu, iff_of_true rfl (hiff.mp h), .inl rfl⟩
  · obtain ⟨e, hmal, he⟩ := parseNotification_of_not_accepts hs hdef h
    refine ⟨_, exec_of_error (i := .parse) he, iff_of_false ?_ (mt hiff.mpr h), .inr hmal⟩
    rintro rfl
    cases hmal

end Sys2Proof.Machine

/-! ## Proofs: the pixel encoder (R162 to R171, R175, R176) -/

namespace Sys2Proof.Machine

/-! ### Gray values -/

theorem dark_eq_decide (g : Byte) : dark g = decide (g.toNat < 128) := rfl

/-- Settles O25: dark and level4 as numbers (R165, R169), and (255 - g) / 16 = 15 - g / 16 since 255 is 15 * 16 + 15. -/
theorem grayValues : Obligations.GrayValues := by
  unfold Obligations.GrayValues
  intro g
  have hg := g.isLt
  refine ⟨by rw [dark_eq_decide, decide_eq_true_iff], level4_toNat g, ?_⟩
  rw [level4_toNat]
  omega

/-! ### The two modes -/

/-- What the proofs use of an encode command `i` with `bpl` bytes a line and `per` pixels a byte: its pseudocode, that a
line is 384 pixels, and what a byte of white and one of black pixels is. -/
structure EncodeMode (i : Instr) (bpl per : Nat) (pack : List Byte → Byte) : Prop where
  body : ∀ s, commandBody i s = encodePixels bpl per pack s
  line : per * bpl = 384
  white : pack (List.replicate per 255) = 0x00
  black : pack (List.replicate per 0) = 0xFF

theorem EncodeMode.enc1 : EncodeMode .enc1 48 8 packByte1 := ⟨fun _ => rfl, rfl, by decide, by decide⟩

theorem EncodeMode.enc4 : EncodeMode .enc4 192 2 packByte4 := ⟨fun _ => rfl, rfl, by decide, by decide⟩

theorem packLines_getElem?_of_uniform {per size k : Nat} (pack : List Byte → Byte) {px : List Byte} {g : Byte}
    (hk : k < size) (h : ∀ j < per, px[per * k + j]? = some g) :
    (packLines per pack size px)[k]? = some (pack (List.replicate per g)) := by
  have hgroup : (px.drop (per * k)).take per = List.replicate per g := by
    apply List.ext_getElem?
    intro j
    rw [List.getElem?_take, List.getElem?_drop, List.getElem?_replicate]
    split
    · exact h j ‹_›
    · rfl
  rw [packLines_getElem? per pack size px hk, hgroup]

/-! ### The state after a successful encode -/

/-- The state in which an encode of a raster completes (R164, R168). -/
def State.encoded (s : State) (bpl per : Nat) (pack : List Byte → Byte) (raster : List Byte) : State :=
  ((s.storeOutput (packLines per pack (bpl * s.paddedRows)
    (paddedRaster s.rows s.paddedRows raster))).storeOutHeight s.paddedRows).complete .ok

section
variable {i : Instr} {bpl per : Nat} {pack : List Byte → Byte} (m : EncodeMode i bpl per pack)
  {s t : State} {raster : List Byte}

theorem State.encoded_eq_update (s : State) (bpl per : Nat) (pack : List Byte → Byte) (raster : List Byte) :
    s.encoded bpl per pack raster = { s with
      dst := (s.encoded bpl per pack raster).dst
      outLen := BitVec.ofNat 32 (bpl * s.paddedRows)
      outHeight := BitVec.ofNat 16 s.paddedRows
      err := .ok
      done := true
      seq := .idle } := by
  simp only [State.encoded, State.complete, State.storeOutHeight, State.storeOutput, packLines_length]

theorem State.encoded_read {a : Nat} (ha : a < bpl * s.paddedRows) : (s.encoded bpl per pack raster).dst.read a =
    (packLines per pack (bpl * s.paddedRows) (paddedRaster s.rows s.paddedRows raster))[a]? :=
  (Memory.read_writeRun_zero _ _ _).trans (if_pos (by rwa [packLines_length]))

theorem State.encoded_read_past {a : Nat} (ha : bpl * s.paddedRows ≤ a) :
    (s.encoded bpl per pack raster).dst.read a = s.dst.read a :=
  (Memory.read_writeRun_zero _ _ _).trans (if_neg (by rw [packLines_length]; omega))

theorem State.encoded_isSome {a : Nat} (ha : a < bpl * s.paddedRows) :
    ((s.encoded bpl per pack raster).dst.read a).isSome := by
  rw [State.encoded_read ha, packLines_getElem? _ _ _ _ ha, Option.isSome_some]

theorem State.encoded_outHeight : (s.encoded bpl per pack raster).outHeight.toNat = s.paddedRows := by
  obtain ⟨-, hmax⟩ := s.paddedRows_bounds
  exact (BitVec.toNat_ofNat _ _).trans (Nat.mod_eq_of_lt (by omega))

include m

/-- OUT_LEN does not wrap: HEIGHT has 16 bits, a line at most 384 bytes. -/
theorem EncodeMode.encoded_outLen : (s.encoded bpl per pack raster).outLen.toNat = bpl * s.paddedRows := by
  obtain ⟨-, hmax⟩ := s.paddedRows_bounds
  have hbpl : bpl ≤ 384 := Nat.le_of_dvd (by decide) ⟨per, by rw [Nat.mul_comm, m.line]⟩
  have hlt : bpl * s.paddedRows < 2 ^ 32 := (Nat.mul_le_mul hbpl hmax).trans_lt (by decide)
  rw [State.encoded_eq_update, BitVec.toNat_ofNat, Nat.mod_eq_of_lt hlt]

theorem EncodeMode.exec_of_holds (hl : raster.length = 384 * s.rows) (hs : raster.length ≤ s.cfg.srcSize)
    (hd : bpl * s.paddedRows ≤ s.cfg.dstSize) (h : s.src.holds 0 raster) :
    exec i s = .next (s.encoded bpl per pack raster) :=
  exec_of_ok ((m.body s).trans (encodePixels_of_holds hl (hl ▸ hs) hd h))

/-- A successful encode packed the raster that SRC holds. -/
theorem EncodeMode.exec_ok (h : exec i s = .next t) (ht : t.err = .ok) :
    ∃ raster, raster.length = 384 * s.rows ∧ s.src.holds 0 raster ∧ t = s.encoded bpl per pack raster := by
  obtain ⟨u, hu, rfl⟩ := exec_next_of_ok h ht
  obtain ⟨raster, hl, -, -, hsrc, rfl⟩ := encodePixels_ok ((m.body s).symm.trans hu)
  exact ⟨raster, hl, hsrc, rfl⟩

/-! ### Bytes of like pixels -/

/-- The pixels of a byte of the first `rows` lines are pixels of those lines. -/
theorem EncodeMode.pixel_lt {rows a j : Nat} (ha : a < bpl * rows) (hj : j < per) : per * a + j < 384 * rows :=
  calc per * a + j < per * (a + 1) := by rw [Nat.mul_succ]; omega
    _ ≤ per * (bpl * rows) := Nat.mul_le_mul_left per ha
    _ = 384 * rows := by rw [← Nat.mul_assoc, m.line]

/-- The pixels of a byte past the first `rows` lines are past them. -/
theorem EncodeMode.le_pixel {rows a : Nat} (ha : bpl * rows ≤ a) : 384 * rows ≤ per * a :=
  calc 384 * rows = per * (bpl * rows) := by rw [← Nat.mul_assoc, m.line]
    _ ≤ per * a := Nat.mul_le_mul_left per ha

theorem EncodeMode.encoded_read_of_uniform {a : Nat} {g : Byte} (hl : raster.length = 384 * s.rows)
    (ha : a < bpl * s.paddedRows) (hg : ∀ j < per, raster.getD (per * a + j) 255 = g) :
    (s.encoded bpl per pack raster).dst.read a = some (pack (List.replicate per g)) := by
  rw [State.encoded_read ha]
  refine packLines_getElem?_of_uniform pack ha fun j hj => ?_
  rw [paddedRaster_getElem? hl s.rows_le_paddedRows (m.pixel_lt ha hj), hg j hj]

/-! ### What a successful encode leaves in DST, in either mode (R162, R175, R176) -/

theorem EncodeMode.pads (h : exec i s = .next t) (ht : t.err = .ok) :
    t.outHeight.toNat = s.paddedRows ∧ t.outLen.toNat = bpl * t.outHeight.toNat ∧
      ∀ a < t.outLen.toNat, (t.dst.read a).isSome := by
  obtain ⟨raster, -, -, rfl⟩ := m.exec_ok h ht
  rw [m.encoded_outLen, State.encoded_outHeight]
  exact ⟨rfl, rfl, fun a => State.encoded_isSome⟩

/-- R176: every pixel of a byte past the raster's lines is white. -/
theorem EncodeMode.padding_zero (h : exec i s = .next t) (ht : t.err = .ok) :
    ∀ a, bpl * s.rows ≤ a → a < bpl * t.outHeight.toNat → t.dst.read a = some 0x00 := by
  obtain ⟨raster, hl, -, rfl⟩ := m.exec_ok h ht
  rw [State.encoded_outHeight]
  intro a hlo ha
  rw [m.encoded_read_of_uniform hl ha (g := 255) fun j _ => ?_, m.white]
  have hpast : raster.length ≤ per * a + j := by
    have := m.le_pixel hlo
    omega
  rw [List.getD_eq_default _ _ hpast]

/-- A raster whose every byte is `g` packs its own lines to the byte of pixels `g`. -/
theorem EncodeMode.constant_raster {g : Byte} (h : exec i s = .next t) (ht : t.err = .ok)
    (hg : ∀ p < 384 * s.rows, s.src.read p = some g) :
    ∀ a < bpl * s.rows, t.dst.read a = some (pack (List.replicate per g)) := by
  obtain ⟨raster, hl, hsrc, rfl⟩ := m.exec_ok h ht
  intro a ha
  have hpadded : bpl * s.rows ≤ bpl * s.paddedRows := Nat.mul_le_mul_left bpl s.rows_le_paddedRows
  refine m.encoded_read_of_uniform hl (ha.trans_le hpadded) fun j hj => ?_
  have hp := m.pixel_lt ha hj
  have hread := hsrc (per * a + j) (hl ▸ hp)
  rw [Nat.zero_add, hg _ hp] at hread
  rw [List.getD_eq_getElem?_getD, ← hread, Option.getD_some]

/-- R175: a white raster packs to 0x00 bytes like its padding; a black one's own lines to 0xFF bytes. -/
theorem EncodeMode.white_and_black (h : exec i s = .next t) (ht : t.err = .ok) :
    ((∀ p < 384 * s.rows, s.src.read p = some 255) → ∀ a < t.outLen.toNat, t.dst.read a = some 0x00) ∧
    ((∀ p < 384 * s.rows, s.src.read p = some 0) →
      (86 ≤ s.rows → ∀ a < t.outLen.toNat, t.dst.read a = some 0xFF) ∧
      (s.rows < 86 → (∀ a < bpl * s.rows, t.dst.read a = some 0xFF) ∧
        ∀ a, bpl * s.rows ≤ a → a < t.outLen.toNat → t.dst.read a = some 0x00)) := by
  obtain ⟨hheight, hlen, -⟩ := m.pads h ht
  have hpadding : ∀ a, bpl * s.rows ≤ a → a < t.outLen.toNat → t.dst.read a = some 0x00 := fun a hlo ha =>
    m.padding_zero h ht a hlo (hlen ▸ ha)
  refine ⟨fun hwhite a ha => ?_, fun hblack => ?_⟩
  · rcases Nat.lt_or_ge a (bpl * s.rows) with hown | hpad
    · rw [m.constant_raster h ht hwhite a hown, m.white]
    · exact hpadding a hpad ha
  · have hown : ∀ a < bpl * s.rows, t.dst.read a = some 0xFF := fun a ha => by
      rw [m.constant_raster h ht hblack a ha, m.black]
    refine ⟨fun htall a ha => hown a ?_, fun _ => ⟨hown, hpadding⟩⟩
    rwa [hlen, hheight, State.paddedRows, Nat.max_eq_left htall] at ha

end

/-- Settles O22: the two modes report and write the padded lines. -/
theorem encodePadsToMinimumHeight : Obligations.EncodePadsToMinimumHeight := by
  unfold Obligations.EncodePadsToMinimumHeight
  exact fun s t => ⟨EncodeMode.enc1.pads, EncodeMode.enc4.pads⟩

/-- Settles O23: a byte past the raster's lines packs white pixels only. -/
theorem paddingLinesAreZero : Obligations.PaddingLinesAreZero := by
  unfold Obligations.PaddingLinesAreZero
  exact ⟨by decide, fun s t => ⟨EncodeMode.enc1.padding_zero, EncodeMode.enc4.padding_zero⟩⟩

/-- Settles O24: the raster's own bytes pack pixels of one gray, the others are padding. -/
theorem whiteAndBlackRasters : Obligations.WhiteAndBlackRasters := by
  unfold Obligations.WhiteAndBlackRasters
  rintro s t bpl (⟨rfl, h⟩ | ⟨rfl, h⟩) ht
  · exact EncodeMode.enc1.white_and_black h ht
  · exact EncodeMode.enc4.white_and_black h ht

/-! ### Pixel by pixel -/

/-- The gray of pixel (x, y) of the padded raster (R163): past the raster's rows it is the list's default. -/
theorem ite_row_eq_getD {raster : List Byte} {rows x y : Nat} (hl : raster.length = 384 * rows) :
    (if y < rows then raster.getD (384 * y + x) 255 else 255) = raster.getD (384 * y + x) 255 := by
  split
  · rfl
  · rw [List.getD_eq_default _ _ (by omega)]

/-- Settles O20: ENC1 completes in the encoded state, whose byte p >> 3 holds pixel p at bit p AND 7. -/
theorem enc1PacksPixels : Obligations.Enc1PacksPixels := by
  unfold Obligations.Enc1PacksPixels
  intro s raster hl hs hd hsrc
  refine ⟨_, EncodeMode.enc1.exec_of_holds hl hs hd hsrc, State.encoded_eq_update .., fun x hx y hy => ?_,
    fun a => State.encoded_read_past⟩
  refine ⟨by omega, by omega, ?_⟩
  have hy' : y < s.paddedRows := hy
  obtain ⟨b, hb, hbit⟩ := packLines1_pixel hl s.rows_le_paddedRows (p := 384 * y + x) (by omega)
  refine ⟨b, (State.encoded_read (by omega)).trans hb, ?_⟩
  rw [hbit, dark_eq_decide, ite_row_eq_getD hl]

/-- Settles O21: ENC4 completes in the encoded state, whose byte p >> 1 holds the level of pixel p in its nibble. -/
theorem enc4PacksPixels : Obligations.Enc4PacksPixels := by
  unfold Obligations.Enc4PacksPixels
  intro s raster hl hs hd hsrc
  refine ⟨_, EncodeMode.enc4.exec_of_holds hl hs hd hsrc, State.encoded_eq_update .., fun x hx y hy => ?_,
    fun a => State.encoded_read_past⟩
  refine ⟨by omega, by omega, ?_⟩
  have hy' : y < s.paddedRows := hy
  obtain ⟨b, hb, hnibble⟩ := packLines4_pixel hl s.rows_le_paddedRows (p := 384 * y + x) (by omega)
  refine ⟨b, (State.encoded_read (by omega)).trans hb, ?_⟩
  rw [hnibble, level4_toNat, ite_row_eq_getD hl]

end Sys2Proof.Machine

/-! ## Proofs: the error codes and the bounded completion (R200 to R209, R216) -/

namespace Sys2Proof.Machine

/-- The completion of any word, legal or not, is the completion `finish` of some pseudocode (R209). -/
theorem completeWord_eq_finish (w : Word) (s : State) : ∃ r, completeWord w s = finish s r := by
  cases hd : decode w with
  | command i => exact ⟨commandBody i s, by rw [completeWord_command hd, exec_eq_finish]⟩
  | illegal why => exact ⟨.error (.error .illegal), by rw [completeWord_illegal hd, finish_raise]⟩

/-- Settles O26: the step is the completion of the pending word, which answers a completed state or UNINIT. -/
theorem pendingWordCompletes : Obligations.PendingWordCompletes := by
  unfold Obligations.PendingWordCompletes
  intro s w ht hs
  rw [step_pending (State.mover_of_pending ht hs) hs]
  obtain ⟨r, hr⟩ := completeWord_eq_finish w s.endTurn
  rcases finish_outcome s.endTurn r with ⟨t, hnext⟩ | hfault
  · have completed := completeWord_completes (hr.trans hnext)
    exact .inl ⟨t, hr.trans hnext, completed.seq, completed.done⟩
  · exact .inr (hr.trans hfault)

/-- Settles O9: the range checks come before every SRC read, and in BUILD after the length check alone. -/
theorem rangeErrors : Obligations.RangeErrors := by
  unfold Obligations.RangeErrors
  intro s
  refine ⟨fun h => ⟨?crc8, ?parse⟩, fun hm h => ?build, fun h => ?enc1, fun h => ?enc4⟩
  case crc8 => exact exec_of_error (i := .crc8) (crc8Command_range h)
  case parse => exact exec_of_error (i := .parse) (parseNotification_range h)
  case build => exact exec_of_error (i := .build) (buildCommand_range hm h)
  case enc1 => exact exec_of_error (i := .enc1) (encodePixels_range h)
  case enc4 => exact exec_of_error (i := .enc4) (encodePixels_range h)

/-- Settles O10: the length check is BUILD's first. -/
theorem buildRefusesLongPayload : Obligations.BuildRefusesLongPayload := by
  unfold Obligations.BuildRefusesLongPayload
  exact fun s h => exec_of_error (i := .build) (buildCommand_len h)

/-- Settles O11: PARSE checks the range, then the two header bytes' room, before it reads any. -/
theorem parseShort : Obligations.ParseShort := by
  unfold Obligations.ParseShort
  exact fun s hs h => exec_of_error (i := .parse) (parseNotification_short hs h)

/-- Settles O12: the header check needs bytes 0 and 1 alone. -/
theorem parseHeaderMismatch : Obligations.ParseHeaderMismatch := by
  unfold Obligations.ParseHeaderMismatch
  exact fun s b0 b1 hs hn h0 h1 hb => exec_of_error (i := .parse) (parseNotification_of_header hs hn h0 h1 hb)

/-- Settles O13: with a good header, there is no room for the length field, or for the payload it declares. -/
theorem parseTruncated : Obligations.ParseTruncated := by
  unfold Obligations.ParseTruncated
  intro s hs hn h0 h1
  refine ⟨fun h6 => ?noLength, fun lo hi h6 hlo hhi hlt => ?noPayload⟩
  case noLength => exact exec_of_error (i := .parse) (parseNotification_tooShort hs hn h0 h1 h6)
  case noPayload =>
    rw [← lengthField_toNat] at hlt
    have head : s.FrameHead lo hi := ⟨hs, h6, h0, h1, hlo, hhi⟩
    exact exec_of_error (i := .parse) (parseNotification_truncated head hlt)

end Sys2Proof.Machine

/-! ## Proofs: the busy window, reset, and the eventual completion (R230, R233 to R236) -/

namespace Sys2Proof.Machine

/-! ### Writes in the busy window -/

/-- A write to CMD or an operand register is dropped while busy (R235). -/
theorem State.writeReg_of_busy {s : State} {n : Nat} {v : Word} (hb : s.busy = true) (h1 : 1 ≤ n) (h4 : n ≤ 4) :
    s.writeReg n v = s.setOvr true := by
  obtain rfl | rfl | rfl | rfl : n = 1 ∨ n = 2 ∨ n = 3 ∨ n = 4 := by omega
  all_goals exact State.unlessBusy_busy hb

/-- From `s` to `t` the pending word and everything the command reads besides the parameters stay as they are (R235). -/
structure State.SameCommand (s t : State) : Prop where
  seq : t.seq = s.seq
  srcLen : t.srcLen = s.srcLen
  cmdId : t.cmdId = s.cmdId
  height : t.height = s.height
  src : t.src = s.src

theorem State.SameBlock.sameCommand {s t : State} (h : s.SameBlock t) : s.SameCommand t :=
  ⟨h.seq, h.srcLen, h.cmdId, h.height, h.src⟩

/-- A host access changes SEQ, an operand register or SRC only while idle (R235). -/
theorem State.hostAccess_sameCommand {s t : State} {a : HostAccess} (hbusy : s.seq ≠ .idle)
    (h : s.hostAccess a = .next t) : s.SameCommand t := by
  obtain ⟨hissue, hsrcLen, hcmdId, hheight⟩ := State.hostAccess_registers h
  exact ⟨not_not.mp fun hne => hbusy (hissue (.inl hne)).1, not_not.mp fun hne => hbusy (hsrcLen hne).1,
    not_not.mp fun hne => hbusy (hcmdId hne).1, not_not.mp fun hne => hbusy (hheight hne).1,
    (State.hostAccess_src h).resolve_right fun hsrc => hbusy hsrc.1⟩

/-- A step after which a command is still pending is neither a completion nor a reset, so it leaves that command as it
was (R235). -/
theorem step_sameCommand {s t : State} (hs : s.seq ≠ .idle) (h : step s = .next t) (ht : t.seq ≠ .idle) :
    s.SameCommand t := by
  rcases step_next_block h with ⟨_, -, -, hw⟩ | ⟨a, -, -, ha⟩ | ⟨-, -, rfl⟩ | same
  · exact absurd (completeWord_completes hw).seq ht
  · have keeps : s.endTurn.endHostOp.SameCommand t := State.hostAccess_sameCommand hs ha
    exact ⟨keeps.seq, keeps.srcLen, keeps.cmdId, keeps.height, keeps.src⟩
  · exact absurd (State.hostReset_seq _) ht
  · exact same.sameCommand

/-- Settles O33: what needs an idle block is dropped, and a step that keeps a command pending keeps its operands. -/
theorem busyWritesAreDropped : Obligations.BusyWritesAreDropped := by
  unfold Obligations.BusyWritesAreDropped
  refine ⟨fun s hm hbusy => ⟨fun n v h1 h4 hp => ?operand, fun a b ha hp => step_srcWrite_busy hm ha hbusy hp,
    fun v hp => ?status, fun n v h5 h16 hp => step_regWrite_ignored hm h5 h16 hp,
    fun a b ha hp => step_memWrite (m := .dst) hm ha hp⟩, fun s t hs h ht => ?pending⟩
  case operand =>
    have hb : s.endTurn.endHostOp.busy = true := State.busy_iff_seq_ne_idle.mpr hbusy
    rw [step_regWrite hm (by omega) hp, State.writeReg_of_busy hb h1 h4]
    rfl
  case status =>
    have hovr : (if v.getLsbD 8 then false else s.ovr) = (s.ovr && !v.getLsbD 8) := by
      cases v.getLsbD 8 <;> simp
    rw [statusWriteClearsOvrOnly s v hm hp, hovr]
  case pending =>
    have keeps := step_sameCommand hs h ht
    exact ⟨keeps.seq, keeps.srcLen, keeps.cmdId, keeps.height, keeps.src⟩

/-! ### Reads in the busy window -/

/-- Settles O39: STATUS, the operands and SRC are outside the hazard of R236, and the invariant gives DONE. -/
theorem busyWindowReads : Obligations.BusyWindowReads := by
  unfold Obligations.BusyWindowReads
  intro s hinv hm hbusy
  have hb : s.busy = true := State.busy_iff_seq_ne_idle.mpr hbusy
  refine ⟨fun hp => ?status, fun hp => step_regRead_value (r := .srcLen) hm (.inr rfl) hp,
    fun hp => step_regRead_value (r := .cmdId) hm (.inr rfl) hp,
    fun hp => step_regRead_value (r := .height) hm (.inr rfl) hp, fun a b ha hread hp => ?src⟩
  case status =>
    exact ⟨s.statusWord, step_regRead_value (r := .status) hm (.inr rfl) hp, s.statusWord_busy.trans hb,
      s.statusWord_done.trans (hinv.busy_not_done hb), s.statusWord_err, s.statusWord_ovr⟩
  case src =>
    have hbyte : (s.memory .src).read a = some b := hread
    rw [step_memRead_of_safe hm ha (.inl rfl) hp, hbyte]
    rfl

/-- The result registers are the numbers from 5 to 12 (R21, R236). -/
theorem exists_resultReg {n : Nat} (h5 : 5 ≤ n) (h12 : n ≤ 12) : ∃ r, regAt n = some r ∧ isResultReg r = true := by
  interval_cases n <;> exact ⟨_, rfl, rfl⟩

/-- A result register read while busy is drawn (R236). -/
theorem State.readReg_drawn {s : State} {n : Nat} (hb : s.busy = true) (h5 : 5 ≤ n) (h12 : n ≤ 12) :
    s.readReg n = (s.observe (.reg n (Config.freeWord s.draws))).countDraw := by
  obtain ⟨r, hr, hresult⟩ := exists_resultReg h5 h12
  rw [State.readReg, hr]
  exact if_pos (by rw [hb, hresult]; rfl)

/-- A DST byte read while busy is drawn, whether it is defined or not (R236, log 13). -/
theorem State.readMem_dst_drawn {s : State} (hb : s.busy = true) (a : Nat) :
    s.readMem .dst a = .next (s.observe (.mem .dst a (Config.freeByte s.draws))).countDraw := if_pos hb

/-- Settles O40: both kinds of read are drawn. -/
theorem busyResultReadsAreDrawn : Obligations.BusyResultReadsAreDrawn := by
  unfold Obligations.BusyResultReadsAreDrawn
  intro s hm hbusy
  have hb : s.endTurn.endHostOp.busy = true := State.busy_iff_seq_ne_idle.mpr hbusy
  refine ⟨fun n h5 h12 hp => ?register, fun a ha hp => ?dst⟩
  case register =>
    rw [step_regRead hm (by omega) hp, State.readReg_drawn hb h5 h12]
    rfl
  case dst =>
    rw [step_memRead (m := .dst) hm ha hp, State.readMem_dst_drawn hb]
    rfl

/-! ### Reset, and the completion of a pending command -/

/-- Settles O46: reset is the host's operation, and asks nothing of the block. -/
theorem resetAtAnyPoint : Obligations.ResetAtAnyPoint := by
  unfold Obligations.ResetAtAnyPoint
  intro s hm hp
  rw [step_hostOperation hm hp]
  rfl

/-- Settles O56, by induction on the listed turns: each is used up by a host with nothing to do, and the block moves
when none is left. -/
theorem pendingCommandIsEventuallyCompleted : Obligations.PendingCommandIsEventuallyCompleted := by
  unfold Obligations.PendingCommandIsEventuallyCompleted
  intro n
  induction n with
  | zero =>
    intro s w hs _ ht
    rcases pendingWordCompletes s w (.inl ht) hs with ⟨t, hnext, hidle, hdone⟩ | hfault
    · exact .inl ⟨t, core_run_of_next hnext, hidle, hdone⟩
    · exact .inr (core_run_of_fault hfault)
  | succ n ih =>
    intro s w hs hp ht
    have hm : s.mover = .host := by rw [State.mover, ht, List.replicate_succ]
    have hstep : step s = .next s.endTurn := (nothingToDoChangesNothing s).2 hm hp
    have htail : s.endTurn.turns = List.replicate n .host := by
      rw [State.endTurn_turns, ht, List.replicate_succ, List.tail_cons]
    rw [core_run_of_next hstep]
    exact ih s.endTurn w hs hp htail

end Sys2Proof.Machine
